-- ==== Sys2Proof/Word.lean ====
section
/-! DEFINITION. The word types: bytes, A64 instruction words, virtual addresses, and the two kinds of
value whose width the spec leaves open. -/

namespace Sys2Proof

/-- One byte of physical memory: the spec's sizes count bytes, one per address (R88). -/
abbrev Byte := BitVec 8

/-- One A64 instruction word: every A64 instruction is 32 bits (R122). -/
abbrev InstrWord := BitVec 32

/-- A virtual address is a 64-bit unsigned value (R9). -/
abbrev VA := BitVec 64

/-- The contents of a register, or of the part of a register, to which the spec gives no field, no bit
position and no width (R28 to R45, D1): a number of any size, on which nothing computes. -/
abbrev RegContents := Nat

/-- The permissions and attributes of an access, which the spec carries without interpreting them
(R82, R86, D30): a number that only stands for them. -/
abbrev Info := Nat

end Sys2Proof
end

