-- ==== Sys2Proof/Types.lean ====
section
/-! DEFINITION. The types of the spec's pseudocode (R14), the System registers and fields it names (R27 to
R45, R48 to R50), and the containers that hold one value per Exception level, Security state or
translation stage. Data only: every function over these types stands in a file under Machine/. -/

namespace Sys2Proof

/-- The four Security states (R21). -/
inductive SecurityState where
  | nonSecure | secure | realm | root
  deriving DecidableEq, Repr, Inhabited

/-- The three Security states that Exception levels below EL3 can be in (R175, R223): they name the
families of translation regimes. -/
inductive World where
  | nonSecure | secure | realm
  deriving DecidableEq, Repr, Inhabited

/-- The four Exception levels (R22). -/
inductive EL where
  | el0 | el1 | el2 | el3
  deriving DecidableEq, Repr, Inhabited

/-- The four physical address spaces (R90). The IPA spaces of a stage 2 are named by the same
constructors; only the first three are ever an IPA space (R89). -/
inductive PASpace where
  | nonSecure | secure | realm | root
  deriving DecidableEq, Repr, Inhabited

/-- The two translation systems (R1). -/
inductive TranslationSystem where
  | vmsav8_64 | vmsav9_128
  deriving DecidableEq, Repr, Inhabited

/-- The three translation granules; there is no other granule size (R141). -/
inductive Granule where
  | g4KB | g16KB | g64KB
  deriving DecidableEq, Repr, Inhabited

/-- The ten translation regimes (R161): EL1&0, EL2&0 and EL2 in each of three Security states, and EL3. -/
inductive Regime where
  | el10 (w : World)
  | el20 (w : World)
  | el2 (w : World)
  | el3
  deriving DecidableEq, Repr, Inhabited

/-- The number of a stage within its regime (R76). -/
inductive StageNumber where
  | one | two
  deriving DecidableEq, Repr, Inhabited

/-- The thirteen translation stages (R221): a stage 1 for each regime, and a stage 2 for each of the three
EL1&0 regimes only (R164). -/
inductive Stage where
  | one (r : Regime)
  | two (w : World)
  deriving DecidableEq, Repr, Inhabited

/-- The VA range an input address falls in (R14, R306). -/
inductive VARange where
  | lower | upper | single
  deriving DecidableEq, Repr, Inhabited

/-- The kinds of MMU fault (R382); `other` stands for every kind the source does not name, and only a
table walk returns it. -/
inductive FaultKind where
  | translation | addressSize | other
  deriving DecidableEq, Repr, Inhabited

/-- An MMU fault: the stage that could not translate its input, the lookup level, the kind (R380). -/
structure MMUFault where
  stage : StageNumber
  level : Int
  kind : FaultKind
  deriving DecidableEq, Repr, Inhabited

/-- The translation context (R14, R20): the Security state, the Exception level that accesses memory, and
the Effective values of HCR_EL2.{E2H, TGE} and SCR_EL3.{EEL2, NSE, NS}. -/
structure Context where
  ss : SecurityState
  el : EL
  e2h : Bool
  tge : Bool
  eel2 : Bool
  nse : Bool
  ns : Bool
  deriving DecidableEq, Repr, Inhabited

/-- The System registers that enable and control the translation stages (Table D8-3, R27). There is no
TCR2_EL3 and no TTBR1_EL3 (R35, R41). -/
inductive SysReg where
  | sctlrEL1 | sctlrEL2 | sctlrEL3
  | sctlr2EL1 | sctlr2EL2 | sctlr2EL3
  | tcrEL1 | tcrEL2 | tcrEL3
  | tcr2EL1 | tcr2EL2
  | mairEL1 | mairEL2 | mairEL3
  | mair2EL1 | mair2EL2 | mair2EL3
  | amairEL1 | amairEL2 | amairEL3
  | amair2EL1 | amair2EL2 | amair2EL3
  | ttbr0EL1 | ttbr0EL2 | ttbr0EL3
  | ttbr1EL1 | ttbr1EL2
  | vtcrEL2 | vttbrEL2 | vstcrEL2 | vsttbrEL2
  | hcrEL2 | scrEL3
  deriving DecidableEq, Repr, Inhabited

/-- The registers that have a T0SZ field (R31, R33, R35, R42, R43). -/
inductive T0SZReg where
  | tcrEL1 | tcrEL2 | tcrEL3 | vtcrEL2 | vstcrEL2
  deriving DecidableEq, Repr, Inhabited

/-- The registers that have a T1SZ field (R31, R33). -/
inductive T1SZReg where
  | tcrEL1 | tcrEL2
  deriving DecidableEq, Repr, Inhabited

/-- The registers that have the output size field {I}PS and the DS field (R31, R33, R35, R42). -/
inductive OASizeReg where
  | tcrEL1 | tcrEL2 | tcrEL3 | vtcrEL2
  deriving DecidableEq, Repr, Inhabited

/-- The registers that have a D128 field (R32, R34, R35, R42). -/
inductive D128Reg where
  | tcr2EL1 | tcr2EL2 | tcrEL3 | vtcrEL2
  deriving DecidableEq, Repr, Inhabited

/-- The fields of the System registers that the source names (R31 to R45); `rest r` is everything in
register `r` that it does not name as a field, the whole of `r` where it names none. -/
inductive SysField where
  | t0sz (r : T0SZReg)
  | t1sz (r : T1SZReg)
  | oaSize (r : OASizeReg)
  | ds (r : OASizeReg)
  | d128 (r : D128Reg)
  | e2h | tge
  | nse | ns | eel2
  | rest (r : SysReg)
  deriving DecidableEq, Repr, Inhabited

/-- The fields of ID_AA64MMFR0_EL1 that the source names (R48 to R50). -/
inductive IdField where
  | paRange
  | tgran (g : Granule)
  | tgranStage2 (g : Granule)
  deriving DecidableEq, Repr, Inhabited

/-- The registers whose contents are virtual addresses (R74): the PC, the stack pointers, LR, ELR. -/
inductive AddrReg where
  | pc
  | sp (el : EL)
  | lr
  | elr
  deriving DecidableEq, Repr, Inhabited

/-- The units, other than the PE's own instruction stream, that the source names as users of a
translation regime (R193, R396). -/
inductive OtherUnit where
  | nv2 | spu | traceBuffer
  deriving DecidableEq, Repr, Inhabited

/-- One value for each Exception level. -/
structure PerEL (α : Type) where
  el0 : α
  el1 : α
  el2 : α
  el3 : α
  deriving DecidableEq, Repr, Inhabited

/-- One value for each Security state below EL3. -/
structure PerWorld (α : Type) where
  nonSecure : α
  secure : α
  realm : α
  deriving DecidableEq, Repr, Inhabited

/-- One value for each of the thirteen translation stages (R221). -/
structure PerStage (α : Type) where
  el10s1 : PerWorld α
  el10s2 : PerWorld α
  el20 : PerWorld α
  el2 : PerWorld α
  el3 : α
  deriving DecidableEq, Repr, Inhabited

/-- The granule in use for each VA range of a stage (R143): `lower` also serves a stage with a single
range, `upper` is read for an upper range only. -/
structure RangeGranules where
  lower : Granule
  upper : Granule
  deriving DecidableEq, Repr, Inhabited

/-- Physical memory: for each of the four PA spaces (R90) the written bytes, as (address, byte) pairs
with strictly rising addresses. -/
structure Memory where
  nonSecure : List Host.Cell
  secure : List Host.Cell
  realm : List Host.Cell
  root : List Host.Cell
  deriving DecidableEq, Repr, Inhabited

/-- A read of one translation table entry by a walk (R85): the stage and the lookup level it is made for,
and where in physical memory the entry stands. -/
structure TableRead where
  stage : Stage
  level : Int
  space : PASpace
  pa : Nat
  deriving DecidableEq, Repr, Inhabited

/-- A TCR with two ranges: TCR_EL1, TCR_EL2 (R31, R33). A TnSZ value is a natural number from 0 to 63
(R126, D26); `oaSize` is the three-bit {I}PS field (R125). -/
structure TcrTwoRange where
  t0sz : BitVec 6
  t1sz : BitVec 6
  oaSize : BitVec 3
  ds : Bool
  rest : RegContents
  deriving DecidableEq, Repr, Inhabited

/-- A TCR with one range and its own D128 field: TCR_EL3, VTCR_EL2 (R35, R42). -/
structure TcrOneRange where
  t0sz : BitVec 6
  oaSize : BitVec 3
  ds : Bool
  d128 : Bool
  rest : RegContents
  deriving DecidableEq, Repr, Inhabited

/-- VSTCR_EL2 (R43). -/
structure Vstcr where
  t0sz : BitVec 6
  rest : RegContents
  deriving DecidableEq, Repr, Inhabited

/-- TCR2_EL1, TCR2_EL2 (R32, R34). -/
structure Tcr2 where
  d128 : Bool
  rest : RegContents
  deriving DecidableEq, Repr, Inhabited

/-- HCR_EL2 (R44). -/
structure Hcr where
  e2h : Bool
  tge : Bool
  rest : RegContents
  deriving DecidableEq, Repr, Inhabited

/-- SCR_EL3 (R45). -/
structure Scr where
  nse : Bool
  ns : Bool
  eel2 : Bool
  rest : RegContents
  deriving DecidableEq, Repr, Inhabited

/-- The System registers of Table D8-3 (R27), each under its own name. Every named field holds its
Effective value (D2). -/
structure SysRegs where
  sctlrEL1 : RegContents
  sctlrEL2 : RegContents
  sctlrEL3 : RegContents
  sctlr2EL1 : RegContents
  sctlr2EL2 : RegContents
  sctlr2EL3 : RegContents
  tcrEL1 : TcrTwoRange
  tcrEL2 : TcrTwoRange
  tcrEL3 : TcrOneRange
  tcr2EL1 : Tcr2
  tcr2EL2 : Tcr2
  mairEL1 : RegContents
  mairEL2 : RegContents
  mairEL3 : RegContents
  mair2EL1 : RegContents
  mair2EL2 : RegContents
  mair2EL3 : RegContents
  amairEL1 : RegContents
  amairEL2 : RegContents
  amairEL3 : RegContents
  amair2EL1 : RegContents
  amair2EL2 : RegContents
  amair2EL3 : RegContents
  ttbr0EL1 : RegContents
  ttbr0EL2 : RegContents
  ttbr0EL3 : RegContents
  ttbr1EL1 : RegContents
  ttbr1EL2 : RegContents
  vtcrEL2 : TcrOneRange
  vttbrEL2 : RegContents
  vstcrEL2 : Vstcr
  vsttbrEL2 : RegContents
  hcrEL2 : Hcr
  scrEL3 : Scr
  deriving DecidableEq, Repr, Inhabited

end Sys2Proof
end

