-- ==== Sys2Proof/Config.lean ====
section
/-! DEFINITION. The configuration of an implementation (R6), and the open parameters of the spec: the table
walk, the output of a disabled stage, the encoding of the TGran fields and the stage state that a fetch
uses around an enable. The open parameters are constants with no body, so that a claim holds whatever
they are. -/

namespace Sys2Proof

/-- What an implementation does with a TnSZ above the maximum (`TnSZTooLarge`, R322). -/
inductive TnSZTooLarge where
  | clampToMax | fault
  deriving DecidableEq, Repr, Inhabited

/-- What an implementation without FEAT_LVA does with a stage 1 TnSZ below the minimum
(`S1TnSZTooSmall`, R325). -/
inductive S1TnSZTooSmall where
  | treatAs16 | fault
  deriving DecidableEq, Repr, Inhabited

/-- What an implementation without FEAT_LPA does with a stage 2 T0SZ below the minimum
(`S2T0SZTooSmall`, R358). -/
inductive S2T0SZTooSmall where
  | treatAsMin | fault
  deriving DecidableEq, Repr, Inhabited

/-- The byte order of translation table entries, read only inside the walk (`TableByteOrder`, R91). -/
inductive ByteOrder where
  | little | big
  deriving DecidableEq, Repr, Inhabited

/-- The configuration record of R6: what an implementation fixes. No operation changes it. -/
structure Config where
  haveEL2 : Bool
  haveEL3 : Bool
  soleSecurityState : SecurityState
  /-- `ELUsesAArch64(el)` for each Exception level. -/
  usesAArch64 : PerEL Bool
  featRME : Bool
  featGTG : Bool
  featLPA : Bool
  featLVA : Bool
  featLVA3 : Bool
  featTTST : Bool
  featNV2 : Bool
  haveSPU : Bool
  haveTraceBuffer : Bool
  supportsVMSAv9_128 : Bool
  /-- ID_AA64MMFR0_EL1.PARange (R49). -/
  paRange : BitVec 4
  /-- ID_AA64MMFR0_EL1.{TGran4, TGran16, TGran64}: whether each reports its granule supported (R50). -/
  tgran4 : Bool
  tgran16 : Bool
  tgran64 : Bool
  /-- ID_AA64MMFR0_EL1.{TGran4_2, TGran16_2, TGran64_2} (R50). -/
  tgran4Stage2 : Bool
  tgran16Stage2 : Bool
  tgran64Stage2 : Bool
  realmEL0AArch32 : Bool
  tnszTooLarge : TnSZTooLarge
  s1TnszTooSmall : S1TnSZTooSmall
  s2T0szTooSmall : S2T0SZTooSmall
  tableByteOrder : ByteOrder
  deriving DecidableEq, Repr, Inhabited

/-- What a table walk may depend on (R84): the stage, the VA range, the IA and the space it is in, the
granule, the fields of the stage's controlling registers that serve the range, and physical memory; the
configuration is passed too, and of the context what `Context.seenBy` leaves of it, which only allows more
walks. -/
structure WalkInput where
  cfg : Config
  ctx : Context
  stage : Stage
  range : VARange
  granule : Granule
  ia : Nat
  inSpace : Option PASpace
  regs : List (SysField × Nat)
  mem : Memory
  deriving DecidableEq, Repr, Inhabited

/-- A walk that ends in a fault: how many lookups follow the first one, and the kind (R84 item 6). -/
structure LookupFault where
  moreLookups : Nat
  kind : FaultKind
  deriving DecidableEq, Repr, Inhabited

/-- The open parameters of the spec, as functions. `Machine.walk` keeps a walk within the six constraints
of R84 whatever these functions answer. -/
structure OpenParameters where
  /-- Which of the permitted initial lookup levels a walk starts at. -/
  walkStart : WalkInput → Nat
  /-- How many lookups follow the first one in a walk that succeeds. -/
  walkMoreLookups : WalkInput → Nat
  /-- The fault a walk ends in, if it does. -/
  walkFault : WalkInput → Option LookupFault
  /-- The output page number of a walk, given the first address of the input page (R144). -/
  walkPage : WalkInput → Nat
  /-- The address space a walk's entry asks for, given the first address of the input page (log entry 8). -/
  walkSpace : WalkInput → PASpace
  /-- The permissions and attributes the tables hold. -/
  walkInfo : WalkInput → Info
  /-- Where the table entry of a lookup level stands. -/
  tableEntry : WalkInput → Int → PASpace × Nat
  /-- `FlatOutputSpace` (R83, D31). -/
  flatSpace : Context → StageNumber → Option PASpace → PASpace
  /-- `FlatInfo` (R83, D31). -/
  flatInfo : Context → StageNumber → Option PASpace → Info
  /-- The value a TGran field reads as, which the source does not give (R50). -/
  tgranValue : IdField → Bool → Nat
  /-- Whether a fetch uses the enabled or the disabled state of a stage that software it translates has
  just enabled or disabled (R424, U7). -/
  fetchEnable : Nat → Stage → Bool
  deriving Inhabited

/-- FREE VALUE. Which initial level a walk starts at (R84, D29). -/
opaque Config.walkStart : WalkInput → Nat
/-- FREE VALUE. The length of a successful walk (R84, R85). -/
opaque Config.walkMoreLookups : WalkInput → Nat
/-- FREE VALUE. The faults of lookups (R84 item 6). -/
opaque Config.walkFault : WalkInput → Option LookupFault
/-- FREE VALUE. The output page of a walk (R84). -/
opaque Config.walkPage : WalkInput → Nat
/-- FREE VALUE. The output space of a walk (R84 item 4). -/
opaque Config.walkSpace : WalkInput → PASpace
/-- FREE VALUE. The permissions and attributes of a walk (D30). -/
opaque Config.walkInfo : WalkInput → Info
/-- FREE VALUE. The addresses of table entries (R84 item 5). -/
opaque Config.tableEntry : WalkInput → Int → PASpace × Nat
/-- FREE VALUE. The output space of a disabled stage (D31). -/
opaque Config.flatSpace : Context → StageNumber → Option PASpace → PASpace
/-- FREE VALUE. The permissions and attributes of a disabled stage (D31). -/
opaque Config.flatInfo : Context → StageNumber → Option PASpace → Info
/-- FREE VALUE. The encoding of the TGran fields (R50). -/
opaque Config.tgranValue : IdField → Bool → Nat
/-- FREE VALUE. The stage state a fetch uses around an enable (U7), fresh for each fetch. -/
opaque Config.fetchEnable : Nat → Stage → Bool

/-- The machine's own open parameters: the constants above. -/
def Config.openParameters : OpenParameters where
  walkStart := Config.walkStart
  walkMoreLookups := Config.walkMoreLookups
  walkFault := Config.walkFault
  walkPage := Config.walkPage
  walkSpace := Config.walkSpace
  walkInfo := Config.walkInfo
  tableEntry := Config.tableEntry
  flatSpace := Config.flatSpace
  flatInfo := Config.flatInfo
  tgranValue := Config.tgranValue
  fetchEnable := Config.fetchEnable

end Sys2Proof
end

