-- ==== Sys2Proof/Operation.lean ====
section
/-! DEFINITION. What can happen to the machine besides the two encoded instructions: the abstract operations of
R129, to which the source gives a meaning and no encoding, the moves of the walker agent (R261) and of the
profiling unit, and what other agents do (R395). A run takes them from `State.pending`, in order, between
the instructions that the same list schedules. -/

namespace Sys2Proof

/-- One operation. -/
inductive Operation where
  /-- `Access(ctx, va)` in the current context (R129): the address is translated. -/
  | access (va : VA)
  /-- An access at the address held in a register whose contents are virtual addresses (R74). -/
  | accessVia (r : AddrReg)
  /-- An access of a unit under a regime the executing context does not use (R193, R195, R202, R206). -/
  | unitAccess (u : OtherUnit) (va : VA)
  /-- Software places an address in the PC, an SP, the LR or the ELR (R24, R25). -/
  | setAddr (r : AddrReg) (va : VA)
  /-- `SetField(REG.FIELD, v)` (R129). -/
  | setField (f : SysField) (v : Nat)
  /-- Reading a field back (R322, R325, R358 speak of it). -/
  | readField (f : SysField)
  /-- Reading a field of ID_AA64MMFR0_EL1 (R48). -/
  | readId (f : IdField)
  /-- Software selects the granule of a range of a stage (R143, D4). -/
  | setGranule (st : Stage) (range : VARange) (g : Granule)
  /-- `SetEnabled(stage, b)` (R129). -/
  | setEnabled (st : Stage) (b : Bool)
  /-- `ExceptionTo(el)` (R129, R389). -/
  | exceptionTo (el : EL)
  /-- `ExceptionReturn(el)` (R129, R390). -/
  | exceptionReturn (el : EL)
  /-- The Security state, a direct input of the model (R21, D15). -/
  | setSecurityState (ss : SecurityState)
  /-- Another agent writes a byte of physical memory (R395). -/
  | memWrite (space : PASpace) (pa : Nat) (b : Byte)
  /-- The walker agent begins a speculative walk (R261). -/
  | walkerBegin (r : Regime) (va : VA)
  /-- The walker agent performs the `n`th access in flight (R261). -/
  | walkerPerform (n : Nat)
  /-- The profiling unit comes into use, or goes out of use, at an Exception level (R255, R256). -/
  | spuSetInUse (el : EL) (b : Bool)
  /-- A walk is begun on behalf of the profiling unit (R256). -/
  | spuBegin (r : Regime) (va : VA)
  /-- The `n`th walk access of the profiling unit is performed (R256). -/
  | spuPerform (n : Nat)
  deriving DecidableEq, Repr, Inhabited

/-- One turn of a run: the PE fetches and executes the instruction at the PC, or an operation takes place.
A list of turns says how the agents' moves interleave (R7, R261). -/
inductive Turn where
  | instruction
  | operation (op : Operation)
  deriving DecidableEq, Repr, Inhabited

end Sys2Proof
end

