-- ==== Sys2Proof/Machine/State.lean ====
section
/-! DEFINITION. The machine's state as plain data, the reasons a step can stop, and the state after reset. -/

namespace Sys2Proof.Machine

/-- Why the machine stops where the spec describes a stop or memory that is not there. -/
inductive Fault where
  /-- Raised by the fetch: the MMU cannot translate the address in the PC. The source does not say how a
  fault is delivered (R380, R389), so the machine stops with the fault as a value (D19). Safe. -/
  | mmu (f : MMUFault)
  /-- Raised by the fetch: a byte of the instruction was never written. Safe. -/
  | unwrittenMemory (space : PASpace) (pa : Nat)
  /-- Raised by a memory write of another agent at or above `2^PASize()` (R90, R270). Safe. -/
  | noSuchPhysicalAddress (space : PASpace) (pa : Nat)
  deriving DecidableEq, Repr, Inhabited

/-- Why the machine refuses a step: the spec gives what was asked no meaning. -/
inductive Refusal where
  /-- Raised by an arm of `exec` with no meaning yet; no arm is one. Safe. -/
  | notModelled (mnemonic : String)
  /-- Raised by every step and every translation: PARange is 0b1000 to 0b1111 (R271, D12). Safe. -/
  | reservedPARange
  /-- Raised by every step and every translation: a PA size above 48 bits without FEAT_LPA (R272). Safe. -/
  | paSizeNeedsLPA
  /-- Raised by a translation in a context with no regime (R223, D14). Safe. -/
  | contextNotWellFormed
  /-- Raised by a translation: without EL2 the MMU provides only the EL1&0 regimes and, with EL3, the EL3
  regime; with neither EL2 nor EL3 only the EL1&0 regime of `SoleSecurityState` (R220). Safe. -/
  | regimeNotProvided
  /-- Raised by a translation from Realm EL0 in AArch32 without the support of R169 (P2). Safe. -/
  | realmEL0AArch32
  /-- Raised by a translation in an EL2 regime with TCR_EL2.PS = 0b111 (R279, D13). Safe. -/
  | reservedOASize
  /-- Raised by a translation from EL0 in AArch32 through a VMSAv9-128 stage 1 (R226, D17), or through a
  VMSAv9-128 stage 2 where EL1 or EL0 uses AArch32 (R227). Safe. -/
  | aarch32NeedsVMSAv8
  /-- Raised by an enabled stage configured for a granule it does not support (R149, D4). Safe. -/
  | granuleNotSupported
  /-- Raised by `setField`, `readField`, `readId`: the Exception level is below the register's (R26). Safe. -/
  | registerNotAccessible
  /-- Raised by `setField`: the value is no value of the field (R125, R126). Safe. -/
  | valueDoesNotFit
  /-- Raised by `setEnabled`, `setGranule`: the executing software does not own the stage (R27). Safe. -/
  | stageNotControlledHere
  /-- Raised by `exceptionTo`: the target is no higher Exception level (R129). Safe. -/
  | exceptionTargetNotHigher
  /-- Raised by `exceptionReturn`: the target is no lower Exception level (R129). Safe. -/
  | returnTargetNotLower
  /-- Raised by `exceptionTo`, `exceptionReturn`: the target level is not implemented (R22). Safe. -/
  | exceptionLevelNotImplemented
  /-- Raised by `unitAccess`: the sections that describe these accesses were not supplied (R193, D17). Safe. -/
  | otherUnitAccess (u : OtherUnit)
  /-- Raised by the fetch at an Exception level in AArch32: its instructions are not in the spec (R5). Safe. -/
  | aarch32Instruction
  /-- Raised by the step: the word is no row of the opcode table (R121). Safe. -/
  | encodingNotInSpec
  deriving DecidableEq, Repr, Inhabited

/-- A memory access of a speculative walk (R52, R261): the Exception level executing when the walk
began, the regime it walks, and the table read. -/
structure WalkAccess where
  el : EL
  regime : Regime
  read : TableRead
  deriving DecidableEq, Repr, Inhabited

/-- A walk access made on behalf of the Statistical Profiling Unit, and whether a PSB has marked it for
the following DSB (R256, R257). -/
structure SpuAccess where
  access : WalkAccess
  marked : Bool
  deriving DecidableEq, Repr, Inhabited

/-- What an access of the instruction stream comes to (R82): an address with its space and `info`, or a fault. -/
inductive AccessResult where
  | ok (pa : Nat) (space : PASpace) (info : Info)
  | fault (f : MMUFault)
  deriving DecidableEq, Repr, Inhabited

/-- What an operation of a program shows (R129, the result lists of file 95). -/
inductive Observation where
  | access (ctx : Context) (va : VA) (r : AccessResult)
  | field (f : SysField) (v : Nat)
  | idField (f : IdField) (v : Nat)
  deriving DecidableEq, Repr, Inhabited

/-- The state of the machine. Plain data: every field is a value that can be written out and compared. -/
structure State where
  /-- The configuration of the implementation (R6), ID_AA64MMFR0_EL1 included (R48). -/
  cfg : Config
  /-- The current Security state (R21). -/
  ss : SecurityState
  /-- The current Exception level (R22). -/
  el : EL
  /-- The program counter (R24). -/
  pc : VA
  /-- The stack pointers (R25). -/
  sp : PerEL VA
  /-- The link register (R25). -/
  lr : VA
  /-- The exception link register (R25). -/
  elr : VA
  /-- The System registers of Table D8-3 (R27 to R45). -/
  regs : SysRegs
  /-- `Enabled(stage)` (R27, D3). -/
  enabled : PerStage Bool
  /-- `GranuleOf(stage, range)` (R143, D4). -/
  granules : PerStage RangeGranules
  /-- Physical memory (R90). -/
  mem : Memory
  /-- `InFlightWalkAccesses` (R52), oldest first. -/
  inFlight : List WalkAccess
  /-- The walk accesses in flight on behalf of the profiling unit (R256), oldest first. -/
  spuWalks : List SpuAccess
  /-- At which Exception levels the profiling unit is in use (R255, R256). -/
  spuInUse : PerEL Bool
  /-- MODEL FIELD. The table reads performed so far, oldest first: what can be observed of them (R253). -/
  performed : List TableRead
  /-- MODEL FIELD. What the operations have shown so far, oldest first (R129). -/
  observations : List Observation
  /-- The stages that software they translate has enabled or disabled since the last exception return (R424). -/
  unsettled : List Stage
  /-- MODEL FIELD. How many fetches were made: it selects a fresh free value for each (U7). -/
  fetches : Nat
  /-- MODEL FIELD. The turns scheduled, first one first (R129, R261); with none left the PE executes instructions. -/
  pending : List Turn
  deriving DecidableEq, Repr, Inhabited

/-- The configuration of the reset state: that of Program 1 of file 95. DESIGN CHOICE (log entry 2): what the
program leaves open is false or the first constructor, but for the Execution state of EL2 and EL3, which are
not implemented here: `usesAArch64` answers true for them too. -/
def resetConfig : Config where
  haveEL2 := false
  haveEL3 := false
  soleSecurityState := .nonSecure
  usesAArch64 := { el0 := true, el1 := true, el2 := true, el3 := true }
  featRME := false
  featGTG := false
  featLPA := false
  featLVA := false
  featLVA3 := false
  featTTST := false
  featNV2 := false
  haveSPU := false
  haveTraceBuffer := false
  supportsVMSAv9_128 := false
  paRange := 0b0101
  tgran4 := true
  tgran16 := false
  tgran64 := false
  tgran4Stage2 := false
  tgran16Stage2 := false
  tgran64Stage2 := false
  realmEL0AArch32 := false
  tnszTooLarge := .clampToMax
  s1TnszTooSmall := .treatAs16
  s2T0szTooSmall := .treatAsMin
  tableByteOrder := .little

/-- Every System register at zero. DESIGN CHOICE (log entry 1): the source gives no reset value (R54). -/
def resetRegs : SysRegs where
  sctlrEL1 := 0
  sctlrEL2 := 0
  sctlrEL3 := 0
  sctlr2EL1 := 0
  sctlr2EL2 := 0
  sctlr2EL3 := 0
  tcrEL1 := { t0sz := 0, t1sz := 0, oaSize := 0, ds := false, rest := 0 }
  tcrEL2 := { t0sz := 0, t1sz := 0, oaSize := 0, ds := false, rest := 0 }
  tcrEL3 := { t0sz := 0, oaSize := 0, ds := false, d128 := false, rest := 0 }
  tcr2EL1 := { d128 := false, rest := 0 }
  tcr2EL2 := { d128 := false, rest := 0 }
  mairEL1 := 0
  mairEL2 := 0
  mairEL3 := 0
  mair2EL1 := 0
  mair2EL2 := 0
  mair2EL3 := 0
  amairEL1 := 0
  amairEL2 := 0
  amairEL3 := 0
  amair2EL1 := 0
  amair2EL2 := 0
  amair2EL3 := 0
  ttbr0EL1 := 0
  ttbr0EL2 := 0
  ttbr0EL3 := 0
  ttbr1EL1 := 0
  ttbr1EL2 := 0
  vtcrEL2 := { t0sz := 0, oaSize := 0, ds := false, d128 := false, rest := 0 }
  vttbrEL2 := 0
  vstcrEL2 := { t0sz := 0, rest := 0 }
  vsttbrEL2 := 0
  hcrEL2 := { e2h := false, tge := false, rest := 0 }
  scrEL3 := { nse := false, ns := false, eel2 := false, rest := 0 }

/-- The machine after reset. The source gives no reset value for anything (R54, R420); the values are the
model's (log entries 1 and 2), but for `inFlight`, which R420 starts empty. -/
def State.reset : State where
  cfg := resetConfig
  ss := .nonSecure
  el := .el1
  pc := 0
  sp := { el0 := 0, el1 := 0, el2 := 0, el3 := 0 }
  lr := 0
  elr := 0
  regs := resetRegs
  enabled :=
    { el10s1 := { nonSecure := false, secure := false, realm := false }
      el10s2 := { nonSecure := false, secure := false, realm := false }
      el20 := { nonSecure := false, secure := false, realm := false }
      el2 := { nonSecure := false, secure := false, realm := false }
      el3 := false }
  granules :=
    let g : RangeGranules := { lower := .g4KB, upper := .g4KB }
    { el10s1 := { nonSecure := g, secure := g, realm := g }
      el10s2 := { nonSecure := g, secure := g, realm := g }
      el20 := { nonSecure := g, secure := g, realm := g }
      el2 := { nonSecure := g, secure := g, realm := g }
      el3 := g }
  mem := { nonSecure := [], secure := [], realm := [], root := [] }
  inFlight := []
  spuWalks := []
  spuInUse := { el0 := false, el1 := false, el2 := false, el3 := false }
  performed := []
  observations := []
  unsettled := []
  fetches := 0
  pending := []

end Sys2Proof.Machine
end

