-- ==== Sys2Proof/Machine/Memory.lean ====
section
/-! DEFINITION. Physical memory (R90): reading and writing one byte at a physical address of a PA space, and the
canonical form every write keeps. -/

namespace Sys2Proof

/-- The byte listed at an address; nothing where no byte was ever written (log entry 3). -/
def readCells : List Host.Cell → Nat → Option Byte
  | [], _ => none
  | (a, b) :: t, x => if a = x then some b else readCells t x

/-- Lists a byte at an address, in its place in the order. -/
def writeCells : List Host.Cell → Nat → Byte → List Host.Cell
  | [], x, v => [(x, v)]
  | (a, b) :: t, x, v =>
    if x < a then (x, v) :: (a, b) :: t
    else if x = a then (x, v) :: t
    else (a, b) :: writeCells t x v

/-- The addresses rise strictly. -/
def cellsRising : List Host.Cell → Bool
  | [] => true
  | [_] => true
  | (a, _) :: (b, y) :: t => decide (a < b) && cellsRising ((b, y) :: t)

/-- The written bytes of one PA space. -/
def Memory.cells (m : Memory) : PASpace → List Host.Cell
  | .nonSecure => m.nonSecure
  | .secure => m.secure
  | .realm => m.realm
  | .root => m.root

/-- Memory with the written bytes of one PA space replaced. -/
def Memory.withCells (m : Memory) (sp : PASpace) (l : List Host.Cell) : Memory :=
  match sp with
  | .nonSecure => { m with nonSecure := l }
  | .secure => { m with secure := l }
  | .realm => { m with realm := l }
  | .root => { m with root := l }

/-- One byte of memory, if it was ever written. -/
def Memory.read (m : Memory) (sp : PASpace) (pa : Nat) : Option Byte :=
  readCells (m.cells sp) pa

/-- Memory after a byte is written. -/
def Memory.write (m : Memory) (sp : PASpace) (pa : Nat) (b : Byte) : Memory :=
  m.withCells sp (writeCells (m.cells sp) pa b)

/-- The canonical form: in every space the addresses rise strictly. -/
def Memory.wf (m : Memory) : Bool :=
  cellsRising m.nonSecure && cellsRising m.secure && cellsRising m.realm && cellsRising m.root

/-- Every written address of a list is below a bound. -/
def cellsBelow (bound : Nat) : List Host.Cell → Bool
  | [] => true
  | (a, _) :: t => decide (a < bound) && cellsBelow bound t

/-- Every written address lies in a PA space of the implemented size (R270). -/
def Memory.below (m : Memory) (bound : Nat) : Bool :=
  cellsBelow bound m.nonSecure && cellsBelow bound m.secure && cellsBelow bound m.realm
    && cellsBelow bound m.root

end Sys2Proof
end

