-- ==== Sys2Proof/Machine/Operands.lean ====
section
/-! DEFINITION. The operand forms: a value per Exception level, Security state or stage, a field of a System
register, a register that holds an address. Reading and writing each stands here once. -/

namespace Sys2Proof

/-- The value of an Exception level. -/
def PerEL.get {α : Type} (t : PerEL α) : EL → α
  | .el0 => t.el0
  | .el1 => t.el1
  | .el2 => t.el2
  | .el3 => t.el3

/-- The table with the value of one Exception level replaced. -/
def PerEL.set {α : Type} (t : PerEL α) (el : EL) (v : α) : PerEL α :=
  match el with
  | .el0 => { t with el0 := v }
  | .el1 => { t with el1 := v }
  | .el2 => { t with el2 := v }
  | .el3 => { t with el3 := v }

/-- The value of a Security state. -/
def PerWorld.get {α : Type} (t : PerWorld α) : World → α
  | .nonSecure => t.nonSecure
  | .secure => t.secure
  | .realm => t.realm

/-- The table with the value of one Security state replaced. -/
def PerWorld.set {α : Type} (t : PerWorld α) (w : World) (v : α) : PerWorld α :=
  match w with
  | .nonSecure => { t with nonSecure := v }
  | .secure => { t with secure := v }
  | .realm => { t with realm := v }

/-- The value of a stage. -/
def PerStage.get {α : Type} (t : PerStage α) : Stage → α
  | .one (.el10 w) => t.el10s1.get w
  | .one (.el20 w) => t.el20.get w
  | .one (.el2 w) => t.el2.get w
  | .one .el3 => t.el3
  | .two w => t.el10s2.get w

/-- The table with the value of one stage replaced. -/
def PerStage.set {α : Type} (t : PerStage α) (st : Stage) (v : α) : PerStage α :=
  match st with
  | .one (.el10 w) => { t with el10s1 := t.el10s1.set w v }
  | .one (.el20 w) => { t with el20 := t.el20.set w v }
  | .one (.el2 w) => { t with el2 := t.el2.set w v }
  | .one .el3 => { t with el3 := v }
  | .two w => { t with el10s2 := t.el10s2.set w v }

/-- The granule of a range: a single range shares the lower range's place (R143). -/
def RangeGranules.get (g : RangeGranules) : VARange → Granule
  | .upper => g.upper
  | .lower => g.lower
  | .single => g.lower

/-- The granules of a stage with that of one range replaced. -/
def RangeGranules.set (g : RangeGranules) (range : VARange) (v : Granule) : RangeGranules :=
  match range with
  | .upper => { g with upper := v }
  | .lower => { g with lower := v }
  | .single => { g with lower := v }

/-- The register a field belongs to (R31 to R45). -/
def SysField.reg : SysField → SysReg
  | .t0sz .tcrEL1 => .tcrEL1
  | .t0sz .tcrEL2 => .tcrEL2
  | .t0sz .tcrEL3 => .tcrEL3
  | .t0sz .vtcrEL2 => .vtcrEL2
  | .t0sz .vstcrEL2 => .vstcrEL2
  | .t1sz .tcrEL1 => .tcrEL1
  | .t1sz .tcrEL2 => .tcrEL2
  | .oaSize .tcrEL1 => .tcrEL1
  | .oaSize .tcrEL2 => .tcrEL2
  | .oaSize .tcrEL3 => .tcrEL3
  | .oaSize .vtcrEL2 => .vtcrEL2
  | .ds .tcrEL1 => .tcrEL1
  | .ds .tcrEL2 => .tcrEL2
  | .ds .tcrEL3 => .tcrEL3
  | .ds .vtcrEL2 => .vtcrEL2
  | .d128 .tcr2EL1 => .tcr2EL1
  | .d128 .tcr2EL2 => .tcr2EL2
  | .d128 .tcrEL3 => .tcrEL3
  | .d128 .vtcrEL2 => .vtcrEL2
  | .e2h => .hcrEL2
  | .tge => .hcrEL2
  | .nse => .scrEL3
  | .ns => .scrEL3
  | .eel2 => .scrEL3
  | .rest r => r

/-- The width of a field in bits: 6 for a TnSZ (R126, D26), 3 for {I}PS (R125), 1 for the one-bit fields
(R126); none where the spec states no width. -/
def SysField.width : SysField → Option Nat
  | .t0sz _ => some 6
  | .t1sz _ => some 6
  | .oaSize _ => some 3
  | .ds _ => some 1
  | .d128 _ => some 1
  | .e2h => some 1
  | .tge => some 1
  | .nse => some 1
  | .ns => some 1
  | .eel2 => some 1
  | .rest _ => none

/-- Whether a number is a value of a field. -/
def SysField.fits (f : SysField) (v : Nat) : Bool :=
  match f.width with
  | some n => decide (v < 2 ^ n)
  | none => true

/-- The part of a register that the source does not name as a field. -/
def SysRegs.readRest (r : SysRegs) : SysReg → RegContents
  | .sctlrEL1 => r.sctlrEL1
  | .sctlrEL2 => r.sctlrEL2
  | .sctlrEL3 => r.sctlrEL3
  | .sctlr2EL1 => r.sctlr2EL1
  | .sctlr2EL2 => r.sctlr2EL2
  | .sctlr2EL3 => r.sctlr2EL3
  | .tcrEL1 => r.tcrEL1.rest
  | .tcrEL2 => r.tcrEL2.rest
  | .tcrEL3 => r.tcrEL3.rest
  | .tcr2EL1 => r.tcr2EL1.rest
  | .tcr2EL2 => r.tcr2EL2.rest
  | .mairEL1 => r.mairEL1
  | .mairEL2 => r.mairEL2
  | .mairEL3 => r.mairEL3
  | .mair2EL1 => r.mair2EL1
  | .mair2EL2 => r.mair2EL2
  | .mair2EL3 => r.mair2EL3
  | .amairEL1 => r.amairEL1
  | .amairEL2 => r.amairEL2
  | .amairEL3 => r.amairEL3
  | .amair2EL1 => r.amair2EL1
  | .amair2EL2 => r.amair2EL2
  | .amair2EL3 => r.amair2EL3
  | .ttbr0EL1 => r.ttbr0EL1
  | .ttbr0EL2 => r.ttbr0EL2
  | .ttbr0EL3 => r.ttbr0EL3
  | .ttbr1EL1 => r.ttbr1EL1
  | .ttbr1EL2 => r.ttbr1EL2
  | .vtcrEL2 => r.vtcrEL2.rest
  | .vttbrEL2 => r.vttbrEL2
  | .vstcrEL2 => r.vstcrEL2.rest
  | .vsttbrEL2 => r.vsttbrEL2
  | .hcrEL2 => r.hcrEL2.rest
  | .scrEL3 => r.scrEL3.rest

/-- The registers with that part of one register replaced. -/
def SysRegs.writeRest (r : SysRegs) (g : SysReg) (v : RegContents) : SysRegs :=
  match g with
  | .sctlrEL1 => { r with sctlrEL1 := v }
  | .sctlrEL2 => { r with sctlrEL2 := v }
  | .sctlrEL3 => { r with sctlrEL3 := v }
  | .sctlr2EL1 => { r with sctlr2EL1 := v }
  | .sctlr2EL2 => { r with sctlr2EL2 := v }
  | .sctlr2EL3 => { r with sctlr2EL3 := v }
  | .tcrEL1 => { r with tcrEL1 := { r.tcrEL1 with rest := v } }
  | .tcrEL2 => { r with tcrEL2 := { r.tcrEL2 with rest := v } }
  | .tcrEL3 => { r with tcrEL3 := { r.tcrEL3 with rest := v } }
  | .tcr2EL1 => { r with tcr2EL1 := { r.tcr2EL1 with rest := v } }
  | .tcr2EL2 => { r with tcr2EL2 := { r.tcr2EL2 with rest := v } }
  | .mairEL1 => { r with mairEL1 := v }
  | .mairEL2 => { r with mairEL2 := v }
  | .mairEL3 => { r with mairEL3 := v }
  | .mair2EL1 => { r with mair2EL1 := v }
  | .mair2EL2 => { r with mair2EL2 := v }
  | .mair2EL3 => { r with mair2EL3 := v }
  | .amairEL1 => { r with amairEL1 := v }
  | .amairEL2 => { r with amairEL2 := v }
  | .amairEL3 => { r with amairEL3 := v }
  | .amair2EL1 => { r with amair2EL1 := v }
  | .amair2EL2 => { r with amair2EL2 := v }
  | .amair2EL3 => { r with amair2EL3 := v }
  | .ttbr0EL1 => { r with ttbr0EL1 := v }
  | .ttbr0EL2 => { r with ttbr0EL2 := v }
  | .ttbr0EL3 => { r with ttbr0EL3 := v }
  | .ttbr1EL1 => { r with ttbr1EL1 := v }
  | .ttbr1EL2 => { r with ttbr1EL2 := v }
  | .vtcrEL2 => { r with vtcrEL2 := { r.vtcrEL2 with rest := v } }
  | .vttbrEL2 => { r with vttbrEL2 := v }
  | .vstcrEL2 => { r with vstcrEL2 := { r.vstcrEL2 with rest := v } }
  | .vsttbrEL2 => { r with vsttbrEL2 := v }
  | .hcrEL2 => { r with hcrEL2 := { r.hcrEL2 with rest := v } }
  | .scrEL3 => { r with scrEL3 := { r.scrEL3 with rest := v } }

/-- A T0SZ field. -/
def SysRegs.t0sz (r : SysRegs) : T0SZReg → BitVec 6
  | .tcrEL1 => r.tcrEL1.t0sz
  | .tcrEL2 => r.tcrEL2.t0sz
  | .tcrEL3 => r.tcrEL3.t0sz
  | .vtcrEL2 => r.vtcrEL2.t0sz
  | .vstcrEL2 => r.vstcrEL2.t0sz

/-- A T1SZ field. -/
def SysRegs.t1sz (r : SysRegs) : T1SZReg → BitVec 6
  | .tcrEL1 => r.tcrEL1.t1sz
  | .tcrEL2 => r.tcrEL2.t1sz

/-- An {I}PS field. -/
def SysRegs.oaSize (r : SysRegs) : OASizeReg → BitVec 3
  | .tcrEL1 => r.tcrEL1.oaSize
  | .tcrEL2 => r.tcrEL2.oaSize
  | .tcrEL3 => r.tcrEL3.oaSize
  | .vtcrEL2 => r.vtcrEL2.oaSize

/-- A DS field. -/
def SysRegs.ds (r : SysRegs) : OASizeReg → Bool
  | .tcrEL1 => r.tcrEL1.ds
  | .tcrEL2 => r.tcrEL2.ds
  | .tcrEL3 => r.tcrEL3.ds
  | .vtcrEL2 => r.vtcrEL2.ds

/-- A D128 field. -/
def SysRegs.d128 (r : SysRegs) : D128Reg → Bool
  | .tcr2EL1 => r.tcr2EL1.d128
  | .tcr2EL2 => r.tcr2EL2.d128
  | .tcrEL3 => r.tcrEL3.d128
  | .vtcrEL2 => r.vtcrEL2.d128

/-- A field as a number. -/
def SysRegs.read (r : SysRegs) : SysField → Nat
  | .t0sz g => (r.t0sz g).toNat
  | .t1sz g => (r.t1sz g).toNat
  | .oaSize g => (r.oaSize g).toNat
  | .ds g => (r.ds g).toNat
  | .d128 g => (r.d128 g).toNat
  | .e2h => r.hcrEL2.e2h.toNat
  | .tge => r.hcrEL2.tge.toNat
  | .nse => r.scrEL3.nse.toNat
  | .ns => r.scrEL3.ns.toNat
  | .eel2 => r.scrEL3.eel2.toNat
  | .rest g => r.readRest g

/-- A number read as a one-bit field. -/
def bitOf (v : Nat) : Bool := decide (v % 2 = 1)

/-- The registers with one field set to a value that fits it. -/
def SysRegs.write (r : SysRegs) (f : SysField) (v : Nat) : SysRegs :=
  match f with
  | .t0sz .tcrEL1 => { r with tcrEL1 := { r.tcrEL1 with t0sz := BitVec.ofNat 6 v } }
  | .t0sz .tcrEL2 => { r with tcrEL2 := { r.tcrEL2 with t0sz := BitVec.ofNat 6 v } }
  | .t0sz .tcrEL3 => { r with tcrEL3 := { r.tcrEL3 with t0sz := BitVec.ofNat 6 v } }
  | .t0sz .vtcrEL2 => { r with vtcrEL2 := { r.vtcrEL2 with t0sz := BitVec.ofNat 6 v } }
  | .t0sz .vstcrEL2 => { r with vstcrEL2 := { r.vstcrEL2 with t0sz := BitVec.ofNat 6 v } }
  | .t1sz .tcrEL1 => { r with tcrEL1 := { r.tcrEL1 with t1sz := BitVec.ofNat 6 v } }
  | .t1sz .tcrEL2 => { r with tcrEL2 := { r.tcrEL2 with t1sz := BitVec.ofNat 6 v } }
  | .oaSize .tcrEL1 => { r with tcrEL1 := { r.tcrEL1 with oaSize := BitVec.ofNat 3 v } }
  | .oaSize .tcrEL2 => { r with tcrEL2 := { r.tcrEL2 with oaSize := BitVec.ofNat 3 v } }
  | .oaSize .tcrEL3 => { r with tcrEL3 := { r.tcrEL3 with oaSize := BitVec.ofNat 3 v } }
  | .oaSize .vtcrEL2 => { r with vtcrEL2 := { r.vtcrEL2 with oaSize := BitVec.ofNat 3 v } }
  | .ds .tcrEL1 => { r with tcrEL1 := { r.tcrEL1 with ds := bitOf v } }
  | .ds .tcrEL2 => { r with tcrEL2 := { r.tcrEL2 with ds := bitOf v } }
  | .ds .tcrEL3 => { r with tcrEL3 := { r.tcrEL3 with ds := bitOf v } }
  | .ds .vtcrEL2 => { r with vtcrEL2 := { r.vtcrEL2 with ds := bitOf v } }
  | .d128 .tcr2EL1 => { r with tcr2EL1 := { r.tcr2EL1 with d128 := bitOf v } }
  | .d128 .tcr2EL2 => { r with tcr2EL2 := { r.tcr2EL2 with d128 := bitOf v } }
  | .d128 .tcrEL3 => { r with tcrEL3 := { r.tcrEL3 with d128 := bitOf v } }
  | .d128 .vtcrEL2 => { r with vtcrEL2 := { r.vtcrEL2 with d128 := bitOf v } }
  | .e2h => { r with hcrEL2 := { r.hcrEL2 with e2h := bitOf v } }
  | .tge => { r with hcrEL2 := { r.hcrEL2 with tge := bitOf v } }
  | .nse => { r with scrEL3 := { r.scrEL3 with nse := bitOf v } }
  | .ns => { r with scrEL3 := { r.scrEL3 with ns := bitOf v } }
  | .eel2 => { r with scrEL3 := { r.scrEL3 with eel2 := bitOf v } }
  | .rest g => r.writeRest g v

namespace Machine

/-- The virtual address held in a register (R74). -/
def State.readAddr (s : State) : AddrReg → VA
  | .pc => s.pc
  | .sp el => s.sp.get el
  | .lr => s.lr
  | .elr => s.elr

/-- The state with a virtual address placed in a register. -/
def State.writeAddr (s : State) (r : AddrReg) (va : VA) : State :=
  match r with
  | .pc => { s with pc := va }
  | .sp el => { s with sp := s.sp.set el va }
  | .lr => { s with lr := va }
  | .elr => { s with elr := va }

end Machine

end Sys2Proof
end

