-- ==== Sys2Proof/Machine/Registers.lean ====
section
/-! DEFINITION. The tables about System registers: who may access a register (R26), which registers control each
stage and from where (Table D8-3, R27), and the register that each common abbreviation stands for in a
stage (Table D8-4, R46, R47). -/

namespace Sys2Proof

/-- The number in an Exception level's name: a higher Exception level has the larger number (R22). -/
def EL.num : EL → Nat
  | .el0 => 0
  | .el1 => 1
  | .el2 => 2
  | .el3 => 3

/-- The fields of a register: those the source names, then the rest of it (R28 to R45). -/
def SysReg.fields : SysReg → List SysField
  | .tcrEL1 => [.t0sz .tcrEL1, .t1sz .tcrEL1, .oaSize .tcrEL1, .ds .tcrEL1, .rest .tcrEL1]
  | .tcrEL2 => [.t0sz .tcrEL2, .t1sz .tcrEL2, .oaSize .tcrEL2, .ds .tcrEL2, .rest .tcrEL2]
  | .tcrEL3 => [.t0sz .tcrEL3, .oaSize .tcrEL3, .ds .tcrEL3, .d128 .tcrEL3, .rest .tcrEL3]
  | .tcr2EL1 => [.d128 .tcr2EL1, .rest .tcr2EL1]
  | .tcr2EL2 => [.d128 .tcr2EL2, .rest .tcr2EL2]
  | .vtcrEL2 => [.t0sz .vtcrEL2, .oaSize .vtcrEL2, .ds .vtcrEL2, .d128 .vtcrEL2, .rest .vtcrEL2]
  | .vstcrEL2 => [.t0sz .vstcrEL2, .rest .vstcrEL2]
  | .hcrEL2 => [.e2h, .tge, .rest .hcrEL2]
  | .scrEL3 => [.nse, .ns, .eel2, .rest .scrEL3]
  | r => [.rest r]

/-- The numeric suffix of a register's name: the lowest Exception level that can access it (R26). -/
def SysReg.lowestEL : SysReg → EL
  | .sctlrEL1 | .sctlr2EL1 | .tcrEL1 | .tcr2EL1 | .mairEL1 | .mair2EL1 | .amairEL1 | .amair2EL1
  | .ttbr0EL1 | .ttbr1EL1 => .el1
  | .sctlrEL2 | .sctlr2EL2 | .tcrEL2 | .tcr2EL2 | .mairEL2 | .mair2EL2 | .amairEL2 | .amair2EL2
  | .ttbr0EL2 | .ttbr1EL2 | .vtcrEL2 | .vttbrEL2 | .vstcrEL2 | .vsttbrEL2 | .hcrEL2 => .el2
  | .sctlrEL3 | .sctlr2EL3 | .tcrEL3 | .mairEL3 | .mair2EL3 | .amairEL3 | .amair2EL3
  | .ttbr0EL3 | .scrEL3 => .el3

/-- Whether a register can be accessed from an Exception level (R26). -/
def SysReg.accessibleFrom (r : SysReg) (el : EL) : Bool := decide (r.lowestEL.num ≤ el.num)

/-- Whether ID_AA64MMFR0_EL1, which has the suffix 1, can be read from an Exception level (R26, R48). -/
def idAccessibleFrom (el : EL) : Bool := decide (EL.el1.num ≤ el.num)

/-- The registers that appear in the EL1 rows of Table D8-3. -/
def el1StageRegisters : List SysReg :=
  [.sctlrEL1, .sctlr2EL1, .tcrEL1, .tcr2EL1, .mairEL1, .mair2EL1, .amairEL1, .amair2EL1,
    .ttbr0EL1, .ttbr1EL1, .hcrEL2]

/-- The registers common to the EL2 and EL2&0 stage 1 rows of Table D8-3. -/
def el2StageRegisters : List SysReg :=
  [.sctlrEL2, .sctlr2EL2, .tcrEL2, .tcr2EL2, .mairEL2, .mair2EL2, .amairEL2, .amair2EL2, .ttbr0EL2]

/-- The controlling registers of each stage (Table D8-3, R27). -/
def controllingRegisters : Stage → List SysReg
  | .one (.el2 .nonSecure) => el2StageRegisters
  | .one (.el20 .nonSecure) => el2StageRegisters ++ [.ttbr1EL2, .hcrEL2]
  | .two .nonSecure => [.sctlrEL2, .sctlr2EL2, .vtcrEL2, .vttbrEL2, .hcrEL2]
  | .one (.el10 .nonSecure) => el1StageRegisters
  | .one (.el2 .secure) => el2StageRegisters ++ [.scrEL3]
  | .one (.el20 .secure) => el2StageRegisters ++ [.ttbr1EL2, .hcrEL2, .scrEL3]
  | .two .secure => [.sctlrEL2, .sctlr2EL2, .vstcrEL2, .vsttbrEL2, .vtcrEL2, .vttbrEL2, .hcrEL2, .scrEL3]
  | .one (.el10 .secure) => el1StageRegisters ++ [.scrEL3]
  | .one (.el2 .realm) => el2StageRegisters
  | .one (.el20 .realm) => el2StageRegisters ++ [.ttbr1EL2, .hcrEL2]
  | .two .realm => [.sctlrEL2, .sctlr2EL2, .vtcrEL2, .vttbrEL2, .hcrEL2]
  | .one (.el10 .realm) => el1StageRegisters
  | .one .el3 => [.sctlrEL3, .sctlr2EL3, .scrEL3, .tcrEL3, .mairEL3, .mair2EL3, .amairEL3, .amair2EL3, .ttbr0EL3]

/-- What a stage sees of a context: the fields of HCR_EL2 and of SCR_EL3 only where Table D8-3 lists that
register for the stage, and false for the others, so that a field that does not control the stage changes
none of its translations (R27, R84, R260). -/
def Context.seenBy (c : Context) (st : Stage) : Context :=
  let hcr := (controllingRegisters st).contains .hcrEL2
  let scr := (controllingRegisters st).contains .scrEL3
  { c with
    e2h := hcr && c.e2h
    tge := hcr && c.tge
    eel2 := scr && c.eel2
    nse := scr && c.nse
    ns := scr && c.ns }

/-- The Exception level of the "Controlled from" column of Table D8-3 (R27). -/
def controlledFromEL : Stage → EL
  | .one (.el10 _) => .el1
  | .one (.el20 _) => .el2
  | .one (.el2 _) => .el2
  | .one .el3 => .el3
  | .two _ => .el2

/-- The Security state of the "Controlled from" column of Table D8-3; none is given for EL3 (R27). -/
def controlledFromWorld : Stage → Option World
  | .one (.el10 w) => some w
  | .one (.el20 w) => some w
  | .one (.el2 w) => some w
  | .one .el3 => none
  | .two w => some w

/-- The TCR whose DS and {I}PS fields a stage uses (R46, R47). -/
def tcrOf : Stage → OASizeReg
  | .one (.el10 _) => .tcrEL1
  | .one (.el20 _) => .tcrEL2
  | .one (.el2 _) => .tcrEL2
  | .one .el3 => .tcrEL3
  | .two _ => .vtcrEL2

/-- The field that selects VMSAv9-128 for a stage; an EL2 regime has none (R46, R71, R72). -/
def d128ControlOf : Stage → Option D128Reg
  | .one (.el10 _) => some .tcr2EL1
  | .one (.el20 _) => some .tcr2EL2
  | .one (.el2 _) => none
  | .one .el3 => some .tcrEL3
  | .two _ => some .vtcrEL2

/-- `TnSZField` of a stage 1 (R315, R316): T1SZ for the upper range, T0SZ for the lower or single one. A
regime with one range has no upper range, and its T0SZ then stands for it. -/
def tnszField (regime : Regime) (range : VARange) : SysField :=
  match regime, range with
  | .el10 _, .upper => .t1sz .tcrEL1
  | .el10 _, _ => .t0sz .tcrEL1
  | .el20 _, .upper => .t1sz .tcrEL2
  | .el20 _, _ => .t0sz .tcrEL2
  | .el2 _, _ => .t0sz .tcrEL2
  | .el3, _ => .t0sz .tcrEL3

/-- `T0SZField_S2` (R350): VSTCR_EL2.T0SZ for a Secure IPA, VTCR_EL2.T0SZ for a Non-secure or Realm one. -/
def t0szFieldS2 : PASpace → SysField
  | .secure => .t0sz .vstcrEL2
  | _ => .t0sz .vtcrEL2

/-- `TableBase` of a stage 1 (R315, R316, R46): TTBR1 for the upper range, TTBR0 for the lower or single one. -/
def tableBase (regime : Regime) (range : VARange) : SysReg :=
  match regime, range with
  | .el10 _, .upper => .ttbr1EL1
  | .el10 _, _ => .ttbr0EL1
  | .el20 _, .upper => .ttbr1EL2
  | .el20 _, _ => .ttbr0EL2
  | .el2 _, _ => .ttbr0EL2
  | .el3, _ => .ttbr0EL3

/-- The table base of a stage 2 (R46, R350): VSTTBR_EL2 for a Secure IPA, VTTBR_EL2 otherwise. -/
def tableBaseS2 : PASpace → SysReg
  | .secure => .vsttbrEL2
  | _ => .vttbrEL2

/-- The common abbreviations of Table D8-4 (R47). -/
inductive CommonReg where
  | amair | amair2 | mair | mair2 | sctlr | sctlr2 | tcrStage1 | tcrStage2 | tcr2 | ttbrStage1 | ttbrStage2
  | ttbrn | ttbr0 | ttbr1
  deriving DecidableEq, Repr, Inhabited

/-- Table D8-4 (R47): the registers a common abbreviation stands for at an Exception level; none at EL0. -/
def CommonReg.registers (c : CommonReg) (el : EL) : List SysReg :=
  match c, el with
  | _, .el0 => []
  | .amair, .el1 => [.amairEL1]
  | .amair, .el2 => [.amairEL2]
  | .amair, .el3 => [.amairEL3]
  | .amair2, .el1 => [.amair2EL1]
  | .amair2, .el2 => [.amair2EL2]
  | .amair2, .el3 => [.amair2EL3]
  | .mair, .el1 => [.mairEL1]
  | .mair, .el2 => [.mairEL2]
  | .mair, .el3 => [.mairEL3]
  | .mair2, .el1 => [.mair2EL1]
  | .mair2, .el2 => [.mair2EL2]
  | .mair2, .el3 => [.mair2EL3]
  | .sctlr, .el1 => [.sctlrEL1]
  | .sctlr, .el2 => [.sctlrEL2]
  | .sctlr, .el3 => [.sctlrEL3]
  | .sctlr2, .el1 => [.sctlr2EL1]
  | .sctlr2, .el2 => [.sctlr2EL2]
  | .sctlr2, .el3 => [.sctlr2EL3]
  | .tcrStage1, .el1 => [.tcrEL1]
  | .tcrStage1, .el2 => [.tcrEL2]
  | .tcrStage1, .el3 => [.tcrEL3]
  | .tcrStage2, .el1 => []
  | .tcrStage2, .el2 => [.vtcrEL2, .vstcrEL2]
  | .tcrStage2, .el3 => []
  | .tcr2, .el1 => [.tcr2EL1]
  | .tcr2, .el2 => [.tcr2EL2]
  | .tcr2, .el3 => []
  | .ttbrStage1, .el1 => [.ttbr0EL1, .ttbr1EL1]
  | .ttbrStage1, .el2 => [.ttbr0EL2, .ttbr1EL2]
  | .ttbrStage1, .el3 => [.ttbr0EL3]
  | .ttbrStage2, .el1 => []
  | .ttbrStage2, .el2 => [.vttbrEL2, .vsttbrEL2]
  | .ttbrStage2, .el3 => []
  | .ttbrn, .el1 => [.ttbr0EL1, .ttbr1EL1]
  | .ttbrn, .el2 => [.ttbr0EL2, .ttbr1EL2]
  | .ttbrn, .el3 => [.ttbr0EL3]
  | .ttbr0, .el1 => [.ttbr0EL1]
  | .ttbr0, .el2 => [.ttbr0EL2]
  | .ttbr0, .el3 => [.ttbr0EL3]
  | .ttbr1, .el1 => [.ttbr1EL1]
  | .ttbr1, .el2 => [.ttbr1EL2]
  | .ttbr1, .el3 => []

/-- Whether a field of a controlling register serves the range being translated. A range of a stage 1 has
its own TnSZ and its own TTBR, and nothing configured for one range affects the other (R304, R316); the
Secure IPA range is configured by VSTCR_EL2 and VSTTBR_EL2, the other one by VTCR_EL2 and VTTBR_EL2, but
for the fields of VTCR_EL2 that the whole stage 2 shares (R46, R186). -/
def fieldServes (range : VARange) (inSpace : Option PASpace) : SysField → Bool
  | .t1sz _ => decide (range = .upper)
  | .rest .ttbr1EL1 => decide (range = .upper)
  | .rest .ttbr1EL2 => decide (range = .upper)
  | .t0sz .vtcrEL2 => decide (inSpace ≠ some .secure)
  | .rest .vttbrEL2 => decide (inSpace ≠ some .secure)
  | .t0sz .vstcrEL2 => decide (inSpace = some .secure)
  | .rest .vstcrEL2 => decide (inSpace = some .secure)
  | .rest .vsttbrEL2 => decide (inSpace = some .secure)
  | .t0sz _ => decide (range ≠ .upper)
  | .rest .ttbr0EL1 => decide (range ≠ .upper)
  | .rest .ttbr0EL2 => decide (range ≠ .upper)
  | .rest .ttbr0EL3 => decide (range ≠ .upper)
  | _ => true

/-- The fields that a walk of a stage, for a range, can depend on (R84). -/
def walkFields (st : Stage) (range : VARange) (inSpace : Option PASpace) : List SysField :=
  ((controllingRegisters st).flatMap SysReg.fields).filter (fieldServes range inSpace)

/-- The TnSZ field that configures the IA size of a stage, for a VA range or for the IPA space of a stage 2
(R315, R316, R350). -/
def tnszUsed (st : Stage) (range : VARange) (inSpace : Option PASpace) : SysField :=
  match st with
  | .one r => tnszField r range
  | .two _ => t0szFieldS2 (inSpace.getD .nonSecure)

/-- The value the hardware acts on for a field that holds `v`: an {I}PS above the implemented PA size counts as
that size (R280), and a D128 field as 0 where VMSAv9-128 is not supported (R70). -/
def effectiveField (cfg : Config) (f : SysField) (v : Nat) : Nat :=
  match f with
  | .oaSize _ => min v cfg.paRange.toNat
  | .d128 _ => if cfg.supportsVMSAv9_128 then v else 0
  | _ => v

/-- The view of the registers that a walk gets: those fields with the values the hardware acts on. The TnSZ
that configures the IA size counts as `t`, the TnSZ in use (R322, R325, R358). -/
def walkRegs (cfg : Config) (r : SysRegs) (st : Stage) (range : VARange) (inSpace : Option PASpace)
    (t : Nat) : List (SysField × Nat) :=
  (walkFields st range inSpace).map fun f =>
    (f, if f = tnszUsed st range inSpace then t else effectiveField cfg f (r.read f))

/-- The name of the OA size field of a register (R277): PS or IPS. -/
inductive OASizeName where
  | ps | ips
  deriving DecidableEq, Repr, Inhabited

/-- The name of the {I}PS field (R277): TCR_EL1.IPS; TCR_EL2.PS or .IPS as E2H is 0 or 1; TCR_EL3.PS; the
spec calls the field of VTCR_EL2 PS (R277, D25). -/
def oaSizeName (r : OASizeReg) (e2h : Bool) : OASizeName :=
  match r with
  | .tcrEL1 => .ips
  | .tcrEL2 => if e2h then .ips else .ps
  | .tcrEL3 => .ps
  | .vtcrEL2 => .ps

end Sys2Proof
end

