-- ==== Sys2Proof/Machine/Regimes.lean ====
section
/-! DEFINITION. Translation regimes (41_regimes.md) and what an implementation provides of them
(42_regimes_and_exception_levels.md): the regime of a context, its stages and ranges, Tables D8-1 and
D8-2, and the contexts that can be translated. -/

namespace Sys2Proof

/-- A Security state below EL3, as the Security state it is. -/
def World.ss : World → SecurityState
  | .nonSecure => .nonSecure
  | .secure => .secure
  | .realm => .realm

/-- The Security states that exist below EL3; Root does not (R175). -/
def SecurityState.world? : SecurityState → Option World
  | .nonSecure => some .nonSecure
  | .secure => some .secure
  | .realm => some .realm
  | .root => none

/-- `PermittedPASpace`: Table D8-1 (R163). -/
def permittedPASpace (ss : SecurityState) (p : PASpace) : Bool :=
  match ss with
  | .nonSecure => decide (p = .nonSecure)
  | .secure => decide (p = .nonSecure) || decide (p = .secure)
  | .realm => decide (p = .nonSecure) || decide (p = .realm)
  | .root => true

/-- The IPA spaces that stage 1 of an EL1&0 regime outputs to when a stage 2 follows: one Non-secure, a
Secure and a Non-secure, or one Realm range (R172, R186, R188). -/
def permittedIPASpace (w : World) (p : PASpace) : Bool :=
  match w with
  | .nonSecure => decide (p = .nonSecure)
  | .secure => decide (p = .nonSecure) || decide (p = .secure)
  | .realm => decide (p = .realm)

/-- The SCR_EL3.{NSE, NS} pair of each Security state below EL3 (R21, Table D8-2); no row of a table has
the pair {1, 0}, which stands here for Root. -/
def SecurityState.nsePair : SecurityState → Bool × Bool
  | .nonSecure => (false, true)
  | .secure => (false, false)
  | .realm => (true, true)
  | .root => (true, false)

/-- `TwoVARanges` (R177, R303). -/
def twoVARanges : Regime → Bool
  | .el10 _ => true
  | .el20 _ => true
  | .el2 _ => false
  | .el3 => false

/-- The Exception levels whose accesses a regime translates; two privilege levels exactly where there are
two VA ranges (R160, R168). -/
def privilegeLevels : Regime → List EL
  | .el10 _ => [.el1, .el0]
  | .el20 _ => [.el2, .el0]
  | .el2 _ => [.el2]
  | .el3 => [.el3]

/-- Whether stage 1 of the regime supports the use of ASIDs (R178). DESIGN CHOICE (log entry 44): the table says
"not mentioned" of the EL2 and EL3 regimes (R201), and this function answers false for them; no other
definition of the machine reads it. -/
def supportsASID : Regime → Bool
  | .el10 _ => true
  | .el20 _ => true
  | .el2 _ => false
  | .el3 => false

/-- `RegimeOf` (R175). No regime is defined for Root below EL3, nor for a Secure access by the EL2 or
EL2&0 regime when the Effective value of SCR_EL3.EEL2 is 0 (R190, R204). -/
def regimeOf (c : Context) : Option Regime :=
  match c.el with
  | .el3 => some .el3
  | .el2 =>
    match c.ss.world? with
    | none => none
    | some w =>
      if w = .secure ∧ c.eel2 = false then none
      else if c.e2h then some (.el20 w) else some (.el2 w)
  | .el1 => c.ss.world?.map .el10
  | .el0 =>
    match c.ss.world? with
    | none => none
    | some w =>
      if c.e2h && c.tge then
        if w = .secure ∧ c.eel2 = false then none else some (.el20 w)
      else some (.el10 w)

/-- `HasStage2` (R176). -/
def hasStage2 (cfg : Config) (regime : Regime) (c : Context) : Bool :=
  match regime with
  | .el10 .nonSecure => cfg.haveEL2
  | .el10 .secure => cfg.haveEL2 && c.eel2
  | .el10 .realm => true
  | _ => false

/-- The stage 2 that a translation in a regime goes through, if any: that of `HasStage2` (R82, R176, R178, R188).
-/
def stage2Of (cfg : Config) (regime : Regime) (c : Context) : Option World :=
  match regime with
  | .el10 w => if hasStage2 cfg (.el10 w) c then some w else none
  | _ => none

/-- Whether the translations of a regime are associated with a VMID: those of a regime with a stage 2 are (R172, R186,
R188). DESIGN CHOICE (log entry 44): of a regime without one the source says nothing (R171, R185, R192, R51), and this
function answers false for it; no other definition of the machine reads it. -/
def associatedWithVMID (cfg : Config) (regime : Regime) (c : Context) : Bool :=
  hasStage2 cfg regime c

/-- Whether an Exception level uses AArch64 in a Security state: `ELUsesAArch64` (R6), but that in Realm
state every level above EL0 uses AArch64 only (R169, log entry 17). DESIGN CHOICE (log entry 47): what EL0 uses in
Realm state where `ELUsesAArch64` says AArch32 and the support of R169 is absent is not in the source; it counts
as AArch32. -/
def usesAArch64 (cfg : Config) (ss : SecurityState) (el : EL) : Bool :=
  match ss, el with
  | .realm, .el1 => true
  | .realm, .el2 => true
  | _, el => cfg.usesAArch64.get el

/-- Whether an Exception level is implemented: EL2 and EL3 are optional (R22). -/
def implementsEL (cfg : Config) : EL → Bool
  | .el0 => true
  | .el1 => true
  | .el2 => cfg.haveEL2
  | .el3 => cfg.haveEL3

/-- `StageRequirementsHold`: Table D8-2 (R221, R222). -/
def stageRequirementsHold (cfg : Config) (st : Stage) (c : Context) : Bool :=
  let pair := (c.nse, c.ns)
  let el2AArch64 := cfg.haveEL2 && cfg.usesAArch64.el2
  match st with
  | .one (.el2 .nonSecure) => el2AArch64 && decide (pair = (false, true)) && !c.e2h
  | .one (.el20 .nonSecure) => el2AArch64 && decide (pair = (false, true)) && c.e2h
  | .two .nonSecure => el2AArch64 && decide (pair = (false, true))
  | .one (.el10 .nonSecure) => cfg.usesAArch64.el1 && decide (pair = (false, true))
  | .one (.el2 .secure) => el2AArch64 && c.eel2 && decide (pair = (false, false)) && !c.e2h
  | .one (.el20 .secure) => el2AArch64 && c.eel2 && decide (pair = (false, false)) && c.e2h
  | .two .secure => el2AArch64 && c.eel2 && decide (pair = (false, false))
  | .one (.el10 .secure) => cfg.usesAArch64.el1 && decide (pair = (false, false))
  | .one (.el2 .realm) => cfg.featRME && decide (pair = (true, true)) && !c.e2h
  | .one (.el20 .realm) => cfg.featRME && decide (pair = (true, true)) && c.e2h
  | .two .realm => cfg.featRME && decide (pair = (true, true))
  | .one (.el10 .realm) => cfg.featRME && decide (pair = (true, true))
  | .one .el3 => cfg.haveEL3 && cfg.usesAArch64.el3

/-- Whether a stage 2 that `HasStage2` gives the regime has what Table D8-2 requires of it (R223). -/
def stage2RequirementsHold (cfg : Config) (regime : Regime) (c : Context) : Bool :=
  match regime with
  | .el10 w => !hasStage2 cfg (.el10 w) c || stageRequirementsHold cfg (.two w) c
  | _ => true

/-- `WellFormed(ctx)` (R223): the contexts that the source gives a regime and its stages; an access from an
Exception level that is not implemented is in none of them. -/
def contextWellFormed (cfg : Config) (c : Context) : Bool :=
  implementsEL cfg c.el
    && (match c.el with
        | .el3 => stageRequirementsHold cfg (.one .el3) c
        | _ =>
          decide ((c.nse, c.ns) = c.ss.nsePair)
            && (match regimeOf c with
                | none => false
                | some r => stageRequirementsHold cfg (.one r) c && stage2RequirementsHold cfg r c))

/-- Whether the MMU of an implementation provides a regime (R220): with EL2, what Table D8-2 requires is all
there is to it; without EL2 there is no EL2 and no EL2&0 regime, and without EL3 either, the only regime is
the EL1&0 regime of `SoleSecurityState`. -/
def regimeProvided (cfg : Config) (regime : Regime) : Bool :=
  cfg.haveEL2
    || (match regime with
        | .el10 w => cfg.haveEL3 || decide (w.ss = cfg.soleSecurityState)
        | .el3 => cfg.haveEL3
        | _ => false)

namespace Machine

/-- The context of the instruction stream (R20). Without EL3 the pair {NSE, NS} is taken from the
Security state (R222, D15). -/
def State.ctx (s : State) : Context where
  ss := s.ss
  el := s.el
  e2h := s.regs.hcrEL2.e2h
  tge := s.regs.hcrEL2.tge
  eel2 := s.regs.scrEL3.eel2
  nse := if s.cfg.haveEL3 then s.regs.scrEL3.nse else s.ss.nsePair.1
  ns := if s.cfg.haveEL3 then s.regs.scrEL3.ns else s.ss.nsePair.2

/-- Secure EL2 is enabled when EL2 is implemented and SCR_EL3.EEL2 is 1 (R23). -/
def State.secureEL2Enabled (s : State) : Bool := s.cfg.haveEL2 && s.regs.scrEL3.eel2

end Machine

end Sys2Proof
end

