-- ==== Sys2Proof/Machine/Sizes.lean ====
section
/-! DEFINITION. Granules (40_granules.md), the implemented PA size and the OA size (44_pa_and_oa_size.md), the VA
ranges and the IA size (45_va_ranges_and_ia_size.md), the IPA size (46_ipa_size.md). -/

namespace Sys2Proof

/-! ### Granules -/

/-- `PageBits` (R145). -/
def pageBits : Granule → Nat
  | .g4KB => 12
  | .g16KB => 14
  | .g64KB => 16

/-- `GranuleSupported` (R142, R148): without FEAT_GTG the TGran fields report both stages, with it the
TGran_2 fields report stage 2. -/
def granuleSupported (cfg : Config) (k : StageNumber) (g : Granule) : Bool :=
  match k, cfg.featGTG with
  | .two, true =>
    match g with
    | .g4KB => cfg.tgran4Stage2
    | .g16KB => cfg.tgran16Stage2
    | .g64KB => cfg.tgran64Stage2
  | _, _ =>
    match g with
    | .g4KB => cfg.tgran4
    | .g16KB => cfg.tgran16
    | .g64KB => cfg.tgran64

/-! ### Implemented PA size -/

/-- The sizes of Table D8-6, which are those of the low three bits of Table D8-5: `PSBits` (R278, R125). -/
def psBits (v : BitVec 3) : Nat :=
  match v with
  | 0b000 => 32
  | 0b001 => 36
  | 0b010 => 40
  | 0b011 => 42
  | 0b100 => 44
  | 0b101 => 48
  | 0b110 => 52
  | 0b111 => 56

/-- Table D8-5 (R270); the values 0b1000 to 0b1111 are reserved and give no size (R271). -/
def paRangeBits (v : BitVec 4) : Option Nat :=
  match v with
  | 0b0000 => some 32
  | 0b0001 => some 36
  | 0b0010 => some 40
  | 0b0011 => some 42
  | 0b0100 => some 44
  | 0b0101 => some 48
  | 0b0110 => some 52
  | 0b0111 => some 56
  | _ => none

/-- `PASize()` (R270). A configuration with a reserved PARange, which gives no size, takes no step at all
(R271, `Machine.step`), and no translation (`Machine.translationRefusal`). -/
def paSize (cfg : Config) : Nat := (paRangeBits cfg.paRange).getD 0

/-- Why a configuration is no implementation of the architecture, if it is none (R271, R272): the reason for
which every step is then refused. -/
def configRefusal (cfg : Config) : Option Machine.Refusal :=
  match paRangeBits cfg.paRange with
  | none => some .reservedPARange
  | some n => if 48 < n ∧ cfg.featLPA = false then some .paSizeNeedsLPA else none

/-! ### Limits on TnSZ -/

/-- `IASize` (R317). -/
def iaSize (t : Nat) : Nat := 64 - t

/-- `MaxTnSZ`: Table D8-7 (R318). -/
def maxTnSZ (cfg : Config) (g : Granule) : Nat :=
  if cfg.featTTST then (if g = .g64KB then 47 else 48) else 39

/-! ### VA ranges -/

/-- `SelectRange` (R306): bit 55 selects the range of a two-range regime. -/
def selectRange (regime : Regime) (va : Nat) : VARange :=
  if twoVARanges regime then (if va.testBit 55 then .upper else .lower) else .single

/-- `RangeOf` (R311): the first and the last address of a range of IA size `n`. -/
def rangeOf (range : VARange) (n : Nat) : Nat × Nat :=
  match range with
  | .upper => (2 ^ 64 - 2 ^ n, 2 ^ 64 - 1)
  | .lower => (0, 2 ^ n - 1)
  | .single => (0, 2 ^ n - 1)

/-- `InRange` (R328): all 64 bits of the address are compared (D6). -/
def inRange (range : VARange) (n a : Nat) : Bool :=
  match range with
  | .upper => decide (2 ^ 64 - 2 ^ n ≤ a)
  | .lower => decide (a < 2 ^ n)
  | .single => decide (a < 2 ^ n)

/-- The number of a stage in its regime (R76). -/
def Stage.number : Stage → StageNumber
  | .one _ => .one
  | .two _ => .two

/-! ### Stage 2 initial lookup levels -/

/-- `ValidInitialLevels`: Table D8-9 (R356), by PA size and granule. -/
def validInitialLevels (pasize : Nat) (g : Granule) : List Int :=
  match g with
  | .g4KB =>
    if pasize = 56 then [3, 2, 1, 0, -1, -2]
    else if pasize = 52 then [3, 2, 1, 0, -1]
    else if pasize = 48 ∨ pasize = 44 then [3, 2, 1, 0]
    else [3, 2, 1]
  | .g16KB =>
    if pasize = 56 then [3, 2, 1, 0, -1]
    else if pasize = 52 then [3, 2, 1, 0]
    else if pasize = 48 ∨ pasize = 44 ∨ pasize = 42 then [3, 2, 1]
    else [3, 2]
  | .g64KB =>
    if pasize = 56 then [3, 2, 1, 0]
    else if pasize = 52 ∨ pasize = 48 ∨ pasize = 44 then [3, 2, 1]
    else [3, 2]

/-- `PermittedInitialLevels` (R357): level 3 with the 4KB granule needs FEAT_TTST and AArch64 state. -/
def permittedInitialLevels (cfg : Config) (pasize : Nat) (g : Granule) (aarch64 : Bool) : List Int :=
  if g = .g4KB ∧ (cfg.featTTST && aarch64) = false then
    (validInitialLevels pasize g).filter fun l => decide (l ≠ 3)
  else validInitialLevels pasize g

namespace Machine

/-- `UsesVMSAv9_128` (R71, R72); every D128 field counts as 0 where the implementation does not support
VMSAv9-128 (R70). Whether the stage is enabled plays no part (R73). -/
def usesVMSAv9_128 (s : State) (st : Stage) : Bool :=
  match d128ControlOf st with
  | some r => s.cfg.supportsVMSAv9_128 && s.regs.d128 r
  | none => false

/-- `SystemOf` (R71). -/
def systemOf (s : State) (st : Stage) : TranslationSystem :=
  if usesVMSAv9_128 s st then .vmsav9_128 else .vmsav8_64

/-- `GranuleOf` (R143). -/
def granuleOf (s : State) (st : Stage) (range : VARange) : Granule :=
  (s.granules.get st).get range

/-- `MaxOASize` (R275, R276). -/
def maxOASize (s : State) (st : Stage) (range : VARange) : Nat :=
  match systemOf s st with
  | .vmsav9_128 => 56
  | .vmsav8_64 =>
    match granuleOf s st range with
    | .g64KB => if s.cfg.featLPA then 52 else 48
    | _ => if s.regs.ds (tcrOf st) then 52 else 48

/-- `OASize` (R280): the size {I}PS configures, no larger than the implemented PA size. -/
def oaSize (s : State) (st : Stage) : Nat :=
  min (psBits (s.regs.oaSize (tcrOf st))) (paSize s.cfg)

/-- `MaxVASize` of a stage 1 (R301, R302). -/
def maxVASize (s : State) (regime : Regime) (range : VARange) : Nat :=
  match systemOf s (.one regime) with
  | .vmsav9_128 => if s.cfg.featLVA3 then 56 else if s.cfg.featLVA then 52 else 48
  | .vmsav8_64 =>
    match granuleOf s (.one regime) range with
    | .g64KB => if s.cfg.featLVA then 52 else 48
    | _ => if s.regs.ds (tcrOf (.one regime)) then 52 else 48

/-- `EffectiveMaxVASize` (R307): at most 55 bits in a two-range regime (D28). -/
def effectiveMaxVASize (s : State) (regime : Regime) (range : VARange) : Nat :=
  if twoVARanges regime then min (maxVASize s regime range) 55 else maxVASize s regime range

/-- `MinTnSZ_S1` (R323, R324). -/
def minTnSZS1 (s : State) (regime : Regime) (range : VARange) : Nat :=
  match systemOf s (.one regime) with
  | .vmsav9_128 =>
    if s.cfg.featLVA3 then (if twoVARanges regime then 9 else 8)
    else if s.cfg.featLVA then 12 else 16
  | .vmsav8_64 =>
    match granuleOf s (.one regime) range with
    | .g64KB => if s.cfg.featLVA then 12 else 16
    | _ => if s.regs.ds (tcrOf (.one regime)) then 12 else 16

/-- `EffectiveTnSZ_S1` (R326): the TnSZ that the stage 1 uses for the field value `t`; none is the level 0
Translation fault of R322 or R325. -/
def effectiveTnSZS1 (s : State) (regime : Regime) (range : VARange) (t : Nat) : Option Nat :=
  let max := maxTnSZ s.cfg (granuleOf s (.one regime) range)
  if max < t then
    match s.cfg.tnszTooLarge with
    | .clampToMax => some max
    | .fault => none
  else if t < minTnSZS1 s regime range then
    if s.cfg.featLVA then none
    else
      match s.cfg.s1TnszTooSmall with
      | .treatAs16 => some 16
      | .fault => none
  else some t

/-- `MinT0SZ_S2`: Table D8-8 (R354). A VMSAv8-64 stage 2 of a 56-bit implementation takes the 52-bit
row (R355, D16). The Security state says whether EL1 uses AArch64 (R169). -/
def minT0SZS2 (s : State) (w : World) : Nat :=
  let el1AArch64 := usesAArch64 s.cfg w.ss .el1
  match paSize s.cfg with
  | 32 => if el1AArch64 then 32 else 24
  | 36 => if el1AArch64 then 28 else 24
  | 40 => 24
  | 42 => 22
  | 44 => 20
  | 48 => 16
  | 52 => 12
  | 56 => if systemOf s (.two w) = .vmsav9_128 then 8 else 12
  | _ => 0

/-- `EffectiveT0SZ_S2` (R359): none is the level 0 Translation fault of R322 or R358. -/
def effectiveT0SZS2 (s : State) (w : World) (t : Nat) : Option Nat :=
  let max := maxTnSZ s.cfg (granuleOf s (.two w) .single)
  let min := minT0SZS2 s w
  if max < t then
    match s.cfg.tnszTooLarge with
    | .clampToMax => some max
    | .fault => none
  else if t < min then
    if s.cfg.featLPA then none
    else
      match s.cfg.s2T0szTooSmall with
      | .treatAsMin => some min
      | .fault => none
  else some t

/-- The row of Table D8-9 that a stage 2 uses (R355, R356). -/
def stage2Row (s : State) (w : World) : Nat :=
  if paSize s.cfg = 56 ∧ systemOf s (.two w) = .vmsav8_64 then 52 else paSize s.cfg

/-- The TnSZ a stage uses for a range or an IPA space: none is a level 0 Translation fault (R326, R359). -/
def effectiveTnSZ (s : State) (st : Stage) (range : VARange) (inSpace : Option PASpace) : Option Nat :=
  let t := s.regs.read (tnszUsed st range inSpace)
  match st with
  | .one r => effectiveTnSZS1 s r range t
  | .two w => effectiveT0SZS2 s w t

/-- The range of a stage that an input address falls in: a stage 2 has a single range per IPA space (R177). -/
def stageRange (st : Stage) (ia : Nat) : VARange :=
  match st with
  | .one r => selectRange r ia
  | .two _ => .single

end Machine

end Sys2Proof
end

