-- ==== Sys2Proof/Machine/Walk.lean ====
section
/-! DEFINITION. The translation table walk of an enabled stage (R84). The walk itself is open; what stands here
keeps it within the constraints that the source puts on it, whatever the open parameters answer. -/

namespace Sys2Proof

/-- The output space of a stage 1 that is followed by a stage 2: `p` if it is an IPA space of the regime
(R84 item 4, R172, R186, R188). -/
def constrainIPASpace (w : World) (p : PASpace) : PASpace :=
  match w with
  | .nonSecure => .nonSecure
  | .secure => if p = .secure then .secure else .nonSecure
  | .realm => .realm

/-- The output space of a stage whose output is a PA: `p` if Table D8-1 permits it (R163, R84 item 4). DESIGN
CHOICE (log entry 39): all four PA spaces exist in every configuration, because the source implies, and does
not state, that the Realm and Root spaces need FEAT_RME (R211). -/
def constrainPASpace (ss : SecurityState) (p : PASpace) : PASpace :=
  match ss with
  | .nonSecure => .nonSecure
  | .secure => if p = .secure then .secure else .nonSecure
  | .realm => if p = .realm then .realm else .nonSecure
  | .root => p

/-- The output space of a stage: an IPA space for a stage 1 with a stage 2 after it, else a PA space. -/
def constrainSpace (cfg : Config) (c : Context) (st : Stage) (p : PASpace) : PASpace :=
  match st with
  | .one r =>
    match stage2Of cfg r c with
    | some w => constrainIPASpace w p
    | none => constrainPASpace c.ss p
  | .two _ => constrainPASpace c.ss p

/-- The first address of the page that holds `ia` (R144). -/
def pageBase (g : Granule) (ia : Nat) : Nat := ia / 2 ^ pageBits g * 2 ^ pageBits g

/-- An OA of at most `size` bits whose low bits are flat-mapped from the IA (R84 items 2 and 3, R147). -/
def constrainOA (g : Granule) (size page ia : Nat) : Nat :=
  page % 2 ^ (size - pageBits g) * 2 ^ pageBits g + ia % 2 ^ pageBits g

/-- One of the permitted initial levels. -/
def pickLevel (levels : List Int) (n : Nat) : Int := levels.getD (n % levels.length) 3

/-- How many lookups follow the first one: a walk goes on to level 3 at most (R85). -/
def moreLookupsWithin (start : Int) (n : Nat) : Nat := min n (3 - start).toNat

namespace Machine

/-- The initial lookup levels a walk of a stage may use: any of -2 to 3 for a stage 1, which the source
leaves open (D29), those of Table D8-9 for a stage 2 (R357), by the Execution state of the executing PE,
which for a speculative walk need not be that of the regime's own Exception level. -/
def initialLevels (s : State) (st : Stage) : List Int :=
  match st with
  | .one _ => [-2, -1, 0, 1, 2, 3]
  | .two w =>
    permittedInitialLevels s.cfg (stage2Row s w) (granuleOf s st .single) (usesAArch64 s.cfg s.ss s.el)

/-- What the walk of an input address gets to see (R84). No walk is made without a TnSZ in use. -/
def walkInput (s : State) (c : Context) (st : Stage) (range : VARange) (ia : Nat)
    (inSpace : Option PASpace) : WalkInput where
  cfg := s.cfg
  ctx := c.seenBy st
  stage := st
  range := range
  granule := granuleOf s st range
  ia := ia
  inSpace := inSpace
  regs := walkRegs s.cfg s.regs st range inSpace ((effectiveTnSZ s st range inSpace).getD 0)
  mem := s.mem

/-- The reads of a walk: one table entry at each lookup level from the first on (R84 item 5, R85), each at an
address of a PA space that the Security state can reach (R392). -/
def tableReads (o : OpenParameters) (inp : WalkInput) (start : Int) (more : Nat) : List TableRead :=
  (List.range (more + 1)).map fun (j : Nat) =>
    let level := start + (j : Int)
    let entry := o.tableEntry inp level
    { stage := inp.stage
      level := level
      space := constrainPASpace inp.ctx.ss entry.1
      pa := entry.2 % 2 ^ paSize inp.cfg }

/-- What a walk comes to. -/
inductive WalkResult where
  | ok (oa : Nat) (space : PASpace) (level : Int) (info : Info)
  | fault (f : MMUFault)
  deriving DecidableEq, Repr, Inhabited

/-- A walk: its result and the table reads it makes. -/
structure WalkRun where
  result : WalkResult
  reads : List TableRead
  deriving DecidableEq, Repr, Inhabited

/-- `Walk` (R84). The fault, the levels, the information and the table reads may depend on the whole input address;
the page and the space of the output depend on the input page alone, so that two addresses of one page have outputs
in one page (R144). DEDUCED (log entry 8): R144 does not name the address space; that it too is one for a page is
the model's. -/
def walk (o : OpenParameters) (s : State) (c : Context) (st : Stage) (range : VARange) (ia : Nat)
    (inSpace : Option PASpace) : WalkRun :=
  let g := granuleOf s st range
  let inp := walkInput s c st range ia inSpace
  let page := walkInput s c st range (pageBase g ia) inSpace
  let start := pickLevel (initialLevels s st) (o.walkStart inp)
  match o.walkFault inp with
  | some f =>
    let more := moreLookupsWithin start f.moreLookups
    { result := .fault { stage := st.number, level := start + (more : Int), kind := f.kind }
      reads := tableReads o inp start more }
  | none =>
    let more := moreLookupsWithin start (o.walkMoreLookups inp)
    { result :=
        .ok (constrainOA g (maxOASize s st range) (o.walkPage page) ia)
          (constrainSpace s.cfg c st (o.walkSpace page)) (start + (more : Int)) (o.walkInfo inp)
      reads := tableReads o inp start more }

end Machine

end Sys2Proof
end

