-- ==== Sys2Proof/Machine/Translate.lean ====
section
/-! DEFINITION. `TranslateStage` (R83) and `Translate` (R82): the whole translation of one access. -/

namespace Sys2Proof.Machine

/-- What one stage comes to; `level` is the lookup level that gave the OA, none for a disabled stage. -/
inductive StageResult where
  | ok (oa : Nat) (space : PASpace) (level : Option Int) (info : Info)
  | fault (f : MMUFault)
  | refused (r : Refusal)
  deriving DecidableEq, Repr, Inhabited

/-- One stage: its result and the table reads it makes. -/
structure StageRun where
  result : StageResult
  reads : List TableRead
  deriving DecidableEq, Repr, Inhabited

/-- What a translation comes to (R82). -/
inductive Translation where
  | ok (pa : Nat) (space : PASpace) (info : Info)
  | fault (f : MMUFault)
  | refused (r : Refusal)
  deriving DecidableEq, Repr, Inhabited

/-- A translation: its result and the table reads it makes. -/
structure TranslationRun where
  result : Translation
  reads : List TableRead
  deriving DecidableEq, Repr, Inhabited

/-- A disabled stage (R78): the OA is the IA. Stage 1 still checks that the address fits the implemented PA
size (R329). The open space and attributes depend on the context as the stage sees it. DEDUCED (log entry
31): no other bound is put on the OA, so that a disabled VMSAv8-64 stage 1 of a 56-bit implementation gives
an OA at or above 2^52 for such an IA, by R78 and R83, although R274 read with R73 would make bits [55:52]
zero. -/
def flatStage (o : OpenParameters) (s : State) (c : Context) (st : Stage) (ia : Nat)
    (inSpace : Option PASpace) : StageResult :=
  if st.number = .one ∧ 2 ^ paSize s.cfg ≤ ia then
    .fault { stage := .one, level := 0, kind := .addressSize }
  else
    .ok ia (constrainSpace s.cfg c st (o.flatSpace (c.seenBy st) st.number inSpace)) none
      (o.flatInfo (c.seenBy st) st.number inSpace)

/-- The result of an enabled stage's walk, after the check of the OA against the implemented PA size (R282). -/
def checkOutput (s : State) (st : Stage) (r : WalkResult) : StageResult :=
  match r with
  | .ok oa space level info =>
    if 2 ^ paSize s.cfg ≤ oa then
      .fault { stage := st.number, level := level, kind := .addressSize }
    else .ok oa space (some level) info
  | .fault f => .fault f

/-- `TranslateStage` (R83), in the order of R386: the TnSZ bounds, the range check, the walk, the check of
the OA. A stage configured for an unsupported granule is refused (R149). -/
def translateStage (o : OpenParameters) (s : State) (c : Context) (st : Stage) (ia : Nat)
    (inSpace : Option PASpace) : StageRun :=
  if s.enabled.get st = false then
    { result := flatStage o s c st ia inSpace, reads := [] }
  else
    let range := stageRange st ia
    if granuleSupported s.cfg st.number (granuleOf s st range) = false then
      { result := .refused .granuleNotSupported, reads := [] }
    else
      match effectiveTnSZ s st range inSpace with
      | none => { result := .fault { stage := st.number, level := 0, kind := .translation }, reads := [] }
      | some t =>
        if inRange range (iaSize t) ia = false then
          { result := .fault { stage := st.number, level := 0, kind := .translation }, reads := [] }
        else
          let r := walk o s c st range ia inSpace
          { result := checkOutput s st r.result, reads := r.reads }

/-- The composition of the stages of a regime (R79, R80): the OA of stage 1 is the PA, or the IPA that
stage 2 takes; a stage 1 that does not succeed means that stage 2 is not performed. -/
def translateIn (o : OpenParameters) (s : State) (c : Context) (regime : Regime) (va : Nat) :
    TranslationRun :=
  let r1 := translateStage o s c (.one regime) va none
  match r1.result with
  | .fault f => { result := .fault f, reads := r1.reads }
  | .refused r => { result := .refused r, reads := r1.reads }
  | .ok ipa space _ info =>
    match stage2Of s.cfg regime c with
    | none => { result := .ok ipa space info, reads := r1.reads }
    | some w =>
      let r2 := translateStage o s c (.two w) ipa (some space)
      let reads := r1.reads ++ r2.reads
      match r2.result with
      | .fault f => { result := .fault f, reads := reads }
      | .refused r => { result := .refused r, reads := reads }
      | .ok pa space2 _ info2 => { result := .ok pa space2 info2, reads := reads }

/-- Whether an access is made from EL0 in AArch32 state (R226, R228). -/
def el0AArch32 (cfg : Config) (c : Context) : Bool :=
  decide (c.el = .el0) && !cfg.usesAArch64.el0

/-- The VA of an access: from EL0 in AArch32 it is a 32-bit address, zero-extended (R228). -/
def accessAddress (cfg : Config) (c : Context) (va : VA) : Nat :=
  if el0AArch32 cfg c then va.toNat % 2 ^ 32 else va.toNat

/-- Whether VMSAv8-64 is required of a stage 2: EL1 or EL0 uses AArch32 state and EL2, which is implemented, uses
AArch64, whichever level makes the access (R227). DESIGN CHOICE (log entry 47): in Realm state EL0 counts as using
AArch32 where the configuration says so, without the support of R169 too. -/
def stage2NeedsVMSAv8 (cfg : Config) (w : World) : Bool :=
  (!usesAArch64 cfg w.ss .el1 || !usesAArch64 cfg w.ss .el0)
    && (implementsEL cfg .el2 && usesAArch64 cfg w.ss .el2)

/-- Whether a stage that has to use VMSAv8-64 is configured for VMSAv9-128: the stage 1 of an access made from
EL0 in AArch32 (R226, D17), or a stage 2 of which R227 requires it. -/
def violatesVMSAv8 (s : State) (c : Context) (regime : Regime) : Bool :=
  el0AArch32 s.cfg c && usesVMSAv9_128 s (.one regime)
    || (match stage2Of s.cfg regime c with
        | some w => stage2NeedsVMSAv8 s.cfg w && usesVMSAv9_128 s (.two w)
        | none => false)

/-- Why a regime is refused in a context, if it is: the reserved value of TCR_EL2.PS in an EL2 regime (R279),
or a VMSAv9-128 stage where AArch32 needs VMSAv8-64 (R226, R227). -/
def regimeRefusal (s : State) (c : Context) (regime : Regime) : Option Refusal :=
  let reserved :=
    match regime with
    | .el2 _ => decide (s.regs.tcrEL2.oaSize = 0b111)
    | _ => false
  if reserved then some .reservedOASize
  else if violatesVMSAv8 s c regime then some .aarch32NeedsVMSAv8
  else none

/-- Why a context with its regime is refused, if it is (R220, R223, R169). -/
def contextRefusal (cfg : Config) (c : Context) (regime : Regime) : Option Refusal :=
  if contextWellFormed cfg c = false then some .contextNotWellFormed
  else if regimeProvided cfg regime = false then some .regimeNotProvided
  else if el0AArch32 cfg c && decide (c.ss = .realm) && !cfg.realmEL0AArch32 then
    some .realmEL0AArch32
  else none

/-- What the spec requires before a translation (`require WellFormed(ctx)`, R82), as one check: the
configuration, the context, the regime. -/
def translationRefusal (s : State) (c : Context) (regime : Regime) : Option Refusal :=
  match configRefusal s.cfg with
  | some r => some r
  | none =>
    match contextRefusal s.cfg c regime with
    | some r => some r
    | none => regimeRefusal s c regime

/-- `Translate(ctx, va)` (R82). -/
def translate (o : OpenParameters) (s : State) (c : Context) (va : VA) : TranslationRun :=
  match regimeOf c with
  | none =>
    { result := .refused ((configRefusal s.cfg).getD .contextNotWellFormed), reads := [] }
  | some regime =>
    match translationRefusal s c regime with
    | some r => { result := .refused r, reads := [] }
    | none => translateIn o s c regime (accessAddress s.cfg c va)

end Sys2Proof.Machine
end

