-- ==== Sys2Proof/Machine/Ops.lean ====
section
/-! DEFINITION. The operations the rest of the machine shares: moving to the next instruction, taking an
exception to a higher Exception level and returning from one (R389, R390), the walker agent (R261) and
the completion of its accesses (R254). -/

namespace Sys2Proof.Machine

/-- "Continue with the next instruction" (R254, R257): every A64 instruction is four bytes long (R122). -/
def State.advancePc (s : State) : State := { s with pc := s.pc + 4 }

/-! ### Exceptions -/

/-- An exception is taken to an Exception level: it changes the Exception level and nothing else (R389), so
that the walk accesses in flight stay in flight (R253). -/
def State.takeException (s : State) (target : EL) : State := { s with el := target }

/-- The return from an exception: it changes the Exception level, and from here on every earlier change of a
field or of an enable is in effect (R390, R260). -/
def State.returnFromException (s : State) (target : EL) : State :=
  { s with el := target, unsettled := [] }

/-! ### The walker agent -/

/-- Whether the walker may start a walk of a regime at an Exception level: no EL1&0 regime at EL2 or EL3
(R251), no EL2 or EL2&0 regime at EL3 (R252); no other limit is stated (R261). -/
def walkPermitted (el : EL) (regime : Regime) : Bool :=
  match el, regime with
  | .el3, .el3 => true
  | .el3, _ => false
  | .el2, .el10 _ => false
  | _, _ => true

/-- The context in which the walker walks a regime, which need not be the one in use (R261): the regime's
own Security state and Exception level. For EL3 it is the current Security state at EL3, and Root, which
reaches every space, elsewhere (D15). -/
def State.walkerContext (s : State) (regime : Regime) : Context :=
  match regime with
  | .el10 w => { s.ctx with ss := w.ss, el := .el1 }
  | .el20 w => { s.ctx with ss := w.ss, el := .el2 }
  | .el2 w => { s.ctx with ss := w.ss, el := .el2 }
  | .el3 => { s.ctx with ss := if s.el = .el3 then s.ss else .root, el := .el3 }

/-- The accesses of a walk that the walker begins for a VA (R261); its faults are not reported. DESIGN CHOICE
(log entry 42): they are all fixed at the moment the walk begins, from the registers and the memory of that
moment, so that no later write changes them; and a stage configured for an unsupported granule, which R149
refuses, makes no read. -/
def speculativeAccesses (o : OpenParameters) (s : State) (regime : Regime) (va : VA) :
    List WalkAccess :=
  (translateIn o s (s.walkerContext regime) regime va.toNat).reads.map fun r =>
    { el := s.el, regime := regime, read := r }

/-- The walker begins a speculative walk, where it may: its accesses join `InFlightWalkAccesses` (R261). -/
def State.beginWalk (o : OpenParameters) (s : State) (regime : Regime) (va : VA) : State :=
  if walkPermitted s.el regime then
    { s with inFlight := s.inFlight ++ speculativeAccesses o s regime va }
  else s

/-- The walker performs one access in flight (R261); nothing happens where there is none. -/
def State.performWalkAccess (s : State) (n : Nat) : State :=
  match s.inFlight[n]? with
  | some a => { s with inFlight := s.inFlight.eraseIdx n, performed := s.performed ++ [a.read] }
  | none => s

/-- Whether the profiling unit is in use at an Exception level (R255, R256). -/
def State.spuUsedAt (s : State) (el : EL) : Bool := s.cfg.haveSPU && s.spuInUse.get el

/-- A walk is begun on behalf of the profiling unit, where there is one, in use at the current Exception
level (R255, R256). -/
def State.beginSpuWalk (o : OpenParameters) (s : State) (regime : Regime) (va : VA) : State :=
  if s.spuUsedAt s.el && walkPermitted s.el regime then
    { s with
      spuWalks :=
        s.spuWalks ++
          (speculativeAccesses o s regime va).map fun a => { access := a, marked := false } }
  else s

/-- One walk access of the profiling unit is performed. -/
def State.performSpuAccess (s : State) (n : Nat) : State :=
  match s.spuWalks[n]? with
  | some a => { s with spuWalks := s.spuWalks.eraseIdx n, performed := s.performed ++ [a.access.read] }
  | none => s

/-! ### The two barriers' effects -/

/-- Whether a DSB covers a walk access of the profiling unit: a PSB has marked it (R256), or it was made at a
lower Exception level at which the unit is not in use (R255). DESIGN CHOICE (log entry 43): "in use" is judged
when the DSB executes. -/
def State.dsbCovers (s : State) (a : SpuAccess) : Bool :=
  a.marked || decide (a.access.el.num < s.el.num) && !s.spuUsedAt a.access.el

/-- The reads of the profiling unit that a DSB covers. -/
def State.coveredSpuReads (s : State) : List TableRead :=
  (s.spuWalks.filter s.dsbCovers).map fun a => a.access.read

/-- Every access of `InFlightWalkAccesses` is performed (R254), and every access of the profiling unit that the
DSB covers (R255, R256); none of them is in flight afterwards. -/
def State.completeWalks (s : State) : State :=
  { s with
    inFlight := []
    spuWalks := s.spuWalks.filter fun a => !s.dsbCovers a
    performed := s.performed ++ s.inFlight.map (fun a => a.read) ++ s.coveredSpuReads }

/-- Marks a walk access of the profiling unit if it was made at an Exception level below `el`. -/
def SpuAccess.markBelow (el : EL) (a : SpuAccess) : SpuAccess :=
  if a.access.el.num < el.num then { a with marked := true } else a

/-- The point after which a following DSB also covers the walk accesses made on behalf of the profiling unit
at lower Exception levels (R257): those in flight now are marked. -/
def State.markSpuWalks (s : State) : State :=
  { s with spuWalks := s.spuWalks.map (SpuAccess.markBelow s.el) }

end Sys2Proof.Machine
end

