-- ==== Sys2Proof/Machine/Barriers.lean ====
section
/-! DEFINITION. The meanings of DSB (R254, R255) and PSB (R257, R256). -/

namespace Sys2Proof.Machine

/-- DSB (R254): it waits until no walk access is in flight, that is, they are all performed, and continues
with the next instruction; of the profiling unit's walk accesses it performs those that it covers (R255, R256).
The option plays no part (R122), nor does where the DSB is executed (D18). It
writes no flag and raises no exception. -/
def execDsb (_crm : BitVec 4) (s : State) : Host.Outcome State Fault Refusal :=
  .next s.completeWalks.advancePc

/-- PSB (R257): it marks the point after which a following DSB also covers the profiling unit's walk accesses,
and continues with the next instruction; without the unit it has no other effect. -/
def execPsb (s : State) : Host.Outcome State Fault Refusal :=
  .next (if s.cfg.haveSPU then s.markSpuWalks else s).advancePc

end Sys2Proof.Machine
end

