-- ==== Sys2Proof/Syntax.lean ====
section
/-! DEFINITION. The instructions: one constructor for each row of spec/opcode_table.json. -/

namespace Sys2Proof

/-- The two instructions the source names (R121). -/
inductive Instr where
  /-- DSB, with the barrier option CRm = bits [11:8] of its word (R122). -/
  | dsb (crm : BitVec 4)
  /-- PSB CSYNC, which has no variable field (R123). -/
  | psb
  deriving DecidableEq, Repr, Inhabited

end Sys2Proof
end

