-- ==== Sys2Proof/Machine/Dispatch.lean ====
section
/-! DEFINITION. The dispatch: one arm per constructor of `Instr`, each one call of its meaning. -/

namespace Sys2Proof.Machine

def exec (i : Instr) (s : State) : Host.Outcome State Fault Refusal :=
  match i with
  | .dsb crm => Sys2Proof.Machine.execDsb crm s
  | .psb => Sys2Proof.Machine.execPsb s

end Sys2Proof.Machine
end

