-- ==== Sys2Proof/Decode.lean ====
section
/-! DEFINITION. The decoder, total on any bytes, the encoder, and the host's reading of the opcode table. The encodings
are R122 and R123; an instruction's bytes are stored least significant byte first (log entry 4). -/

namespace Sys2Proof

/-- Why bytes are no instruction of the opcode table. -/
inductive DecodeError where
  /-- Fewer bytes than an instruction word has. -/
  | truncated
  /-- The word is no row of the table (R121, R129). -/
  | notInOpcodeTable
  deriving DecidableEq, Repr, Inhabited

/-- The fixed bits of a DSB word: match 0xD503309F (R122). -/
def dsbMatch : InstrWord := 0xD503309F

/-- Which bits of a DSB word are fixed: mask 0xFFFFF0FF (R122). -/
def dsbMask : InstrWord := 0xFFFFF0FF

/-- The one word of PSB CSYNC: 0xD503223F (R123). -/
def psbWord : InstrWord := 0xD503223F

/-- The instruction that a word encodes. -/
def decodeWord (w : InstrWord) : Except DecodeError Instr :=
  if w &&& dsbMask = dsbMatch then .ok (.dsb (w.extractLsb' 8 4))
  else if w = psbWord then .ok .psb
  else .error .notInOpcodeTable

/-- The word that four bytes store, the first byte the least significant. -/
def wordOfBytes (b0 b1 b2 b3 : Byte) : InstrWord := b3 ++ b2 ++ b1 ++ b0

/-- The bytes that store a word, the least significant first. -/
def bytesOfWord (w : InstrWord) : List Byte :=
  [w.extractLsb' 0 8, w.extractLsb' 8 8, w.extractLsb' 16 8, w.extractLsb' 24 8]

/-- The instruction at the head of a list of bytes, with the bytes after it. -/
def decode : List Byte → Except DecodeError (Instr × List Byte)
  | b0 :: b1 :: b2 :: b3 :: rest =>
    match decodeWord (wordOfBytes b0 b1 b2 b3) with
    | .ok i => .ok (i, rest)
    | .error e => .error e
  | _ => .error .truncated

/-- The word of an instruction (R122, R123). -/
def encodeWord : Instr → InstrWord
  | .dsb crm => dsbMatch ||| (crm.setWidth 32 <<< 8)
  | .psb => psbWord

/-- The bytes of an instruction. -/
def encode (i : Instr) : List Byte := bytesOfWord (encodeWord i)

/-- The word whose low `nbits` bits are those of `w`, every bit above them zero. -/
def tableWord (nbits w : Nat) : InstrWord := BitVec.ofNat 32 (w % 2 ^ nbits)

/-- The instruction the decoder reads from an instruction whose bits, numbered as in the opcode table, are `w`. -/
def decodeTableWord (nbits w : Nat) : Option Instr :=
  match decode (bytesOfWord (tableWord nbits w)) with
  | .ok (i, _) => some i
  | .error _ => none

end Sys2Proof
end

