-- ==== Sys2Proof/Machine/Perform.lean ====
section
/-! DEFINITION. The meaning of each abstract operation of R129, of the walker's and the profiling unit's moves
(R261), and of what other agents do (R395): one definition for each, and the dispatch over them. -/

namespace Sys2Proof.Machine

/-- The outcome of an operation: a next state, a fault or a refusal. -/
abbrev OpOutcome := Host.Outcome State Fault Refusal

/-- The state after an access of the instruction stream has come to a result: the walks it needed are
performed (R261), the result is shown (R129). -/
def State.recordAccess (s : State) (va : VA) (r : AccessResult) (reads : List TableRead) : State :=
  { s with
    performed := s.performed ++ reads
    observations := s.observations ++ [.access s.ctx va r] }

/-- `Access(ctx, va)` in the current context (R129, R82). A fault is a value that the access comes to (R380). -/
def opAccess (o : OpenParameters) (va : VA) (s : State) : OpOutcome :=
  let run := translate o s s.ctx va
  match run.result with
  | .ok pa space info => .next (s.recordAccess va (.ok pa space info) run.reads)
  | .fault f => .next (s.recordAccess va (.fault f) run.reads)
  | .refused r => .refused r

/-- An access at the address held in the PC, an SP, the LR or the ELR (R74). DESIGN CHOICE (log entry 46): what the
PC holds during an instruction is not in the source (R24); for an access through the PC it is the address of the
next instruction to be fetched. -/
def opAccessVia (o : OpenParameters) (r : AddrReg) (s : State) : OpOutcome :=
  opAccess o (s.readAddr r) s

/-- An access of another unit under a regime the executing context does not use: its description was not
supplied, and it is refused (R193, R195, R202, R206, D17). -/
def opUnitAccess (u : OtherUnit) (_va : VA) (_s : State) : OpOutcome :=
  .refused (.otherUnitAccess u)

/-- Software places a virtual address in a register (R24, R25). -/
def opSetAddr (r : AddrReg) (va : VA) (s : State) : OpOutcome := .next (s.writeAddr r va)

/-- `SetField(REG.FIELD, v)` (R129), from an Exception level that can access the register (R26). -/
def opSetField (f : SysField) (v : Nat) (s : State) : OpOutcome :=
  if f.reg.accessibleFrom s.el = false then .refused .registerNotAccessible
  else if f.fits v = false then .refused .valueDoesNotFit
  else .next { s with regs := s.regs.write f v }

/-- A field is read back: the value written, whatever value the hardware acts on (R322). -/
def opReadField (f : SysField) (s : State) : OpOutcome :=
  if f.reg.accessibleFrom s.el = false then .refused .registerNotAccessible
  else .next { s with observations := s.observations ++ [.field f (s.regs.read f)] }

/-- What a field of ID_AA64MMFR0_EL1 reads as: PARange its four bits (R49), a TGran field a value the source
does not give for each answer it can report (R50). -/
def idValue (o : OpenParameters) (cfg : Config) (f : IdField) : Nat :=
  match f with
  | .paRange => cfg.paRange.toNat
  | .tgran g => o.tgranValue f (granuleSupported { cfg with featGTG := false } .one g)
  | .tgranStage2 g => o.tgranValue f (granuleSupported { cfg with featGTG := true } .two g)

/-- A field of the identification register is read (R48). -/
def opReadId (o : OpenParameters) (f : IdField) (s : State) : OpOutcome :=
  if idAccessibleFrom s.el = false then .refused .registerNotAccessible
  else .next { s with observations := s.observations ++ [.idField f (idValue o s.cfg f)] }

/-- Whether the executing software controls a stage: the stage's Exception level of Table D8-3 is implemented, and
the software runs there or above, in the stage's Security state unless at EL3 (R27, log entry 15). So without EL2
nothing enables a stage 2, and stage 1 alone maps the addresses of the EL1&0 regimes (R220). DEDUCED (log entry 18):
the Realm EL1&0 regime has its stage 2 there too (R176, R188), which as a disabled stage gives the space and the
attributes. -/
def State.controls (s : State) (st : Stage) : Bool :=
  implementsEL s.cfg (controlledFromEL st)
    && decide ((controlledFromEL st).num ≤ s.el.num)
    && (decide (s.el = .el3)
        || (match controlledFromWorld st with
            | some w => decide (w.ss = s.ss)
            | none => false))

/-- Software selects the granule of a range of a stage (R143). -/
def opSetGranule (st : Stage) (range : VARange) (g : Granule) (s : State) : OpOutcome :=
  if s.controls st = false then .refused .stageNotControlledHere
  else .next { s with granules := s.granules.set st ((s.granules.get st).set range g) }

/-- Whether a stage translates the accesses of the executing context (R424). -/
def State.translatedBy (s : State) (st : Stage) : Bool :=
  match regimeOf s.ctx with
  | none => false
  | some r =>
    match st with
    | .one r' => decide (r' = r)
    | .two w => decide (stage2Of s.cfg r s.ctx = some w)

/-- The unsettled stages after a stage is enabled or disabled: it joins them if its state changes under
software that it translates (R424). -/
def State.unsettledAfter (s : State) (st : Stage) (b : Bool) : List Stage :=
  if s.translatedBy st && decide (s.enabled.get st ≠ b) && !s.unsettled.contains st then
    st :: s.unsettled
  else s.unsettled

/-- `SetEnabled(stage, b)` (R129). Data accesses see the new state at once; which state a fetch sees stays
open until the next exception return if the stage translates the software itself (R424). -/
def opSetEnabled (st : Stage) (b : Bool) (s : State) : OpOutcome :=
  if s.controls st = false then .refused .stageNotControlledHere
  else .next { s with enabled := s.enabled.set st b, unsettled := s.unsettledAfter st b }

/-- `ExceptionTo(el)`: an exception to a higher Exception level (R129, R389). DESIGN CHOICE (log entry 25): it can go
to EL2 wherever EL2 is implemented, where it is disabled too (Secure state with EEL2 0, R22), which the source leaves
open. -/
def opExceptionTo (target : EL) (s : State) : OpOutcome :=
  if target.num ≤ s.el.num then .refused .exceptionTargetNotHigher
  else if implementsEL s.cfg target = false then .refused .exceptionLevelNotImplemented
  else .next (s.takeException target)

/-- `ExceptionReturn(el)`: a return to a lower Exception level (R129, R390). DESIGN CHOICE (log entry 25): as with
`opExceptionTo`, an implemented EL2 can be its target where it is disabled too. -/
def opExceptionReturn (target : EL) (s : State) : OpOutcome :=
  if s.el.num ≤ target.num then .refused .returnTargetNotLower
  else if implementsEL s.cfg target = false then .refused .exceptionLevelNotImplemented
  else .next (s.returnFromException target)

/-- The current Security state is an input (R21, D15). -/
def opSetSecurityState (ss : SecurityState) (s : State) : OpOutcome := .next { s with ss := ss }

/-- Another agent writes a byte of physical memory (R395); there is none at or above `2^PASize()` (R270). -/
def opMemWrite (space : PASpace) (pa : Nat) (b : Byte) (s : State) : OpOutcome :=
  if 2 ^ paSize s.cfg ≤ pa then .fault (.noSuchPhysicalAddress space pa)
  else .next { s with mem := s.mem.write space pa b }

/-- The walker begins a speculative walk (R261). -/
def opWalkerBegin (o : OpenParameters) (r : Regime) (va : VA) (s : State) : OpOutcome :=
  .next (s.beginWalk o r va)

/-- The walker performs an access in flight (R261). -/
def opWalkerPerform (n : Nat) (s : State) : OpOutcome := .next (s.performWalkAccess n)

/-- The profiling unit comes into or goes out of use at an Exception level (R255, R256). -/
def opSpuSetInUse (el : EL) (b : Bool) (s : State) : OpOutcome :=
  .next { s with spuInUse := s.spuInUse.set el b }

/-- A walk is begun on behalf of the profiling unit (R256). -/
def opSpuBegin (o : OpenParameters) (r : Regime) (va : VA) (s : State) : OpOutcome :=
  .next (s.beginSpuWalk o r va)

/-- A walk access of the profiling unit is performed (R256). -/
def opSpuPerform (n : Nat) (s : State) : OpOutcome := .next (s.performSpuAccess n)

/-- One operation. DESIGN CHOICE (log entry 45): no operation moves the PC, but the one that places an address in
it; how the PE's own operations advance it is not in the source (R24, R129). -/
def perform (o : OpenParameters) (op : Operation) (s : State) : OpOutcome :=
  match op with
  | .access va => opAccess o va s
  | .accessVia r => opAccessVia o r s
  | .unitAccess u va => opUnitAccess u va s
  | .setAddr r va => opSetAddr r va s
  | .setField f v => opSetField f v s
  | .readField f => opReadField f s
  | .readId f => opReadId o f s
  | .setGranule st range g => opSetGranule st range g s
  | .setEnabled st b => opSetEnabled st b s
  | .exceptionTo el => opExceptionTo el s
  | .exceptionReturn el => opExceptionReturn el s
  | .setSecurityState ss => opSetSecurityState ss s
  | .memWrite space pa b => opMemWrite space pa b s
  | .walkerBegin r va => opWalkerBegin o r va s
  | .walkerPerform n => opWalkerPerform n s
  | .spuSetInUse el b => opSpuSetInUse el b s
  | .spuBegin r va => opSpuBegin o r va s
  | .spuPerform n => opSpuPerform n s

end Sys2Proof.Machine
end

