-- ==== Sys2Proof/Machine/Fetch.lean ====
section
/-! DEFINITION. The instruction fetch: an access at the PC (R24, R129) whose address is translated, and whose four
bytes are read from physical memory. -/

namespace Sys2Proof.Machine

/-- The stages as a fetch sees them: an unsettled stage is in either state, by a free value (R424, U7). -/
def fetchEnabled (choice : Stage → Bool) (enabled : PerStage Bool) : List Stage → PerStage Bool
  | [] => enabled
  | st :: rest => (fetchEnabled choice enabled rest).set st (choice st)

/-- The state whose translation a fetch uses. -/
def State.forFetch (o : OpenParameters) (s : State) : State :=
  { s with enabled := fetchEnabled (o.fetchEnable s.fetches) s.enabled s.unsettled }

/-- Where the bytes of an instruction stand, or why they cannot be reached. -/
inductive FetchPlaces where
  | ok (l : List (PASpace × Nat))
  | fault (f : MMUFault)
  | refused (r : Refusal)
  deriving DecidableEq, Repr, Inhabited

/-- The places of a fetch and the table reads it makes. -/
structure FetchRun where
  places : FetchPlaces
  reads : List TableRead
  deriving DecidableEq, Repr, Inhabited

/-- `n` consecutive physical addresses. -/
def consecutive (space : PASpace) (pa : Nat) : Nat → List (PASpace × Nat)
  | 0 => []
  | n + 1 => (space, pa) :: consecutive space (pa + 1) n

/-- The number of bytes of the smallest page (R145). -/
def smallestPage : Nat := 4096

/-- How many of the four bytes at a VA lie in the smallest page that holds the first one. -/
def bytesInPage (va : VA) : Nat := min 4 (smallestPage - va.toNat % smallestPage)

/-- The places of `n` bytes at a VA that lie in one page: one translation (R82). -/
def placesInPage (o : OpenParameters) (s : State) (va : VA) (n : Nat) : FetchRun :=
  let run := translate o s s.ctx va
  match run.result with
  | .ok pa space _ => { places := .ok (consecutive space pa n), reads := run.reads }
  | .fault f => { places := .fault f, reads := run.reads }
  | .refused r => { places := .refused r, reads := run.reads }

/-- The places of the four bytes at the PC: one translation, or two where they span two pages (R92). DESIGN
CHOICE (log entry 40): bytes past the top of the VA space are fetched from VA 0 on, the addresses being added
modulo 2^64, since the PC's wrap-around is not in the source (R24). -/
def fetchPlaces (o : OpenParameters) (s : State) : FetchRun :=
  let s := s.forFetch o
  let n := bytesInPage s.pc
  let first := placesInPage o s s.pc n
  if n = 4 then first
  else
    match first.places with
    | .ok l =>
      let second := placesInPage o s (s.pc + BitVec.ofNat 64 n) (4 - n)
      let reads := first.reads ++ second.reads
      match second.places with
      | .ok l' => { places := .ok (l ++ l'), reads := reads }
      | .fault f => { places := .fault f, reads := reads }
      | .refused r => { places := .refused r, reads := reads }
    | _ => first

/-- The bytes at some places; the first place that nothing has written is the other answer. -/
def readPlaces (m : Memory) : List (PASpace × Nat) → Except (PASpace × Nat) (List Byte)
  | [] => .ok []
  | (space, pa) :: rest =>
    match m.read space pa with
    | none => .error (space, pa)
    | some b =>
      match readPlaces m rest with
      | .ok bs => .ok (b :: bs)
      | .error p => .error p

/-- Memory with bytes written at some places. -/
def writePlaces (m : Memory) : List (PASpace × Nat) → List Byte → Memory
  | (space, pa) :: ps, b :: bs => writePlaces (m.write space pa b) ps bs
  | _, _ => m

/-- What a fetch comes to: the instruction with the state its fetch leaves, or why there is none. -/
inductive Fetched where
  | ok (i : Instr) (s : State)
  | fault (r : Fault)
  | refused (r : Refusal)
  deriving DecidableEq, Repr

/-- The state after a fetch: its table reads are performed (R261), and the next fetch has a fresh free value. -/
def State.afterFetch (s : State) (reads : List TableRead) : State :=
  { s with performed := s.performed ++ reads, fetches := s.fetches + 1 }

/-- The fetch of the instruction at the PC. At an Exception level in AArch32 state the instructions are not
those of the spec (R5, R122). DESIGN CHOICE (log entry 41): the fetch reads the newest byte of memory, so that
it sees every earlier write at once, which the source leaves open (R97). -/
def fetch (o : OpenParameters) (s : State) : Fetched :=
  if usesAArch64 s.cfg s.ss s.el = false then .refused .aarch32Instruction
  else
    let run := fetchPlaces o s
    match run.places with
    | .fault f => .fault (.mmu f)
    | .refused r => .refused r
    | .ok places =>
      match readPlaces s.mem places with
      | .error (space, pa) => .fault (.unwrittenMemory space pa)
      | .ok bytes =>
        match decode bytes with
        | .ok (i, _) => .ok i (s.afterFetch run.reads)
        | .error _ => .refused .encodingNotInSpec

/-- The state with an instruction word stored where its next fetch reads: no scheduled turn comes before the
fetch, and the word's bytes stand at the places that the fetch translates the PC to. -/
def State.storeFetchWord (o : OpenParameters) (s : State) (w : InstrWord) : State :=
  let s := { s with pending := [] }
  match (fetchPlaces o s).places with
  | .ok places => { s with mem := writePlaces s.mem places (bytesOfWord w) }
  | _ => s

end Sys2Proof.Machine
end

