-- ==== Sys2Proof/Machine/Step.lean ====
section
/-! DEFINITION. One step of the machine: the next scheduled turn, or else the instruction at the PC. -/

namespace Sys2Proof.Machine

/-- The PE's turn: it fetches, decodes and executes the instruction at the PC. -/
def instructionTurn (s : State) : Host.Outcome State Fault Refusal :=
  match fetch Config.openParameters s with
  | .ok i s' => exec i s'
  | .fault r => .fault r
  | .refused r => .refused r

/-- One turn: the next one of the schedule (R129, R261), and the PE's turn where none is left. -/
def turn (s : State) : Host.Outcome State Fault Refusal :=
  match s.pending with
  | [] => instructionTurn s
  | .instruction :: rest => instructionTurn { s with pending := rest }
  | .operation op :: rest => perform Config.openParameters op { s with pending := rest }

/-- One step: one turn, in a configuration that is an implementation of the architecture; one that is none is
refused, whatever the turn (R127, R271, R272, D12). -/
def step (s : State) : Host.Outcome State Fault Refusal :=
  match configRefusal s.cfg with
  | some r => .refused r
  | none => turn s

/-- The state with an instruction, whose bits are numbered as in the opcode table, stored where the next
step fetches it. -/
def State.withFetchWord (s : State) (nbits w : Nat) : State :=
  s.storeFetchWord Config.openParameters (tableWord nbits w)

end Sys2Proof.Machine
end

