-- ==== Sys2Proof/WellFormed.lean ====
section
/-! DEFINITION. Well-formedness: of an instruction, of a configuration, of an operation. -/

namespace Sys2Proof

/-- Every instruction is well formed: the option of DSB has exactly the four bits its word gives it (R122). -/
def Instr.wellFormed : Instr → Bool
  | .dsb _ => true
  | .psb => true

/-- A configuration that is an implementation of the architecture: PARange is not reserved (R271), and a PA
size above 48 bits comes with FEAT_LPA (R272). -/
def Config.wellFormed (cfg : Config) : Bool := decide (configRefusal cfg = none)

/-- An operation that can stand in a program of an implementation: a value fits its field (R125, R126), a
physical address exists (R270), an Exception level named is implemented (R22). -/
def Operation.wellFormed (cfg : Config) : Operation → Bool
  | .setField f v => f.fits v
  | .memWrite _ pa _ => decide (pa < 2 ^ paSize cfg)
  | .exceptionTo el => implementsEL cfg el
  | .exceptionReturn el => implementsEL cfg el
  | _ => true

end Sys2Proof
end

