-- ==== Sys2Proof/Safety.lean ====
section
/-! DEFINITION. The terms that claims about runs use: the invariant of the machine, and what a result must satisfy. -/

namespace Sys2Proof.Machine

/-- An address that an access may come to: it exists (R332) and its space is permitted (R163). -/
def resultAllowed (cfg : Config) (c : Context) : AccessResult → Bool
  | .ok pa space _ => decide (pa < 2 ^ paSize cfg) && permittedPASpace c.ss space
  | .fault _ => true

/-- What an observation must satisfy. -/
def observationAllowed (cfg : Config) : Observation → Bool
  | .access c _ r => resultAllowed cfg c r
  | .field f v => f.fits v
  | .idField _ _ => true

/-- A walk access that the walker may have begun: its regime was permitted where it began (R251, R252), and
it reads memory that exists (R270) at a lookup level from -2 to 3 (R85). -/
def walkAccessAllowed (cfg : Config) (a : WalkAccess) : Bool :=
  walkPermitted a.el a.regime
    && decide (a.read.pa < 2 ^ paSize cfg)
    && decide (-2 ≤ a.read.level) && decide (a.read.level ≤ 3)

/-- Without EL2, from which Table D8-3 has every stage 2 controlled, no stage 2 is enabled, and none was switched
by software that it translates, so that a fetch sees none enabled either (R220, log entry 18). -/
def State.stage2NeedsEL2 (s : State) : Bool :=
  s.cfg.haveEL2
    || [World.nonSecure, .secure, .realm].all (fun w => !s.enabled.get (.two w) && !s.unsettled.contains (.two w))

/-- The invariant of the machine: memory is in its canonical form and within the implemented PA size; the
current Exception level is implemented; without EL2 no stage 2 is enabled; every walk access in flight was
permitted; only an implementation with the profiling unit has walk accesses of it; every result shown is one an
access may come to. -/
def State.inv (s : State) : Bool :=
  s.mem.wf
    && s.mem.below (2 ^ paSize s.cfg)
    && implementsEL s.cfg s.el
    && s.stage2NeedsEL2
    && s.inFlight.all (walkAccessAllowed s.cfg)
    && s.spuWalks.all (fun a => s.cfg.haveSPU && walkAccessAllowed s.cfg a.access)
    && s.observations.all (observationAllowed s.cfg)

/-- The next state of an outcome, if there is one. -/
def nextState? (r : Host.Outcome State Fault Refusal) : Option State :=
  match r with
  | .next s => some s
  | .fault _ => none
  | .refused _ => none

/-- The fault of an outcome, if it is one. -/
def faultOf? (r : Host.Outcome State Fault Refusal) : Option Fault :=
  match r with
  | .next _ => none
  | .fault f => some f
  | .refused _ => none

/-- The refusal of an outcome, if it is one. -/
def refusalOf? (r : Host.Outcome State Fault Refusal) : Option Refusal :=
  match r with
  | .next _ => none
  | .fault _ => none
  | .refused f => some f

end Sys2Proof.Machine
end

