-- ==== Sys2Proof/Certificates/Slice0/Obligations.lean ====
section
/-! DEFINITION. The statements for the provers. Where a statement takes open parameters `o`, it holds for every
table walk and every flat output, the machine's own among them. -/

open Sys2Proof Sys2Proof.Machine

/-! ### Encoding -/

/-- A word decodes to an instruction exactly when it is that instruction's word (R122, R123): no bit of an
encoding is dropped, and each word has one meaning. -/
def Obligations.DecodeWordIffEncodeWord : Prop :=
  ∀ (w : InstrWord) (i : Instr), decodeWord w = .ok i ↔ w = encodeWord i

/-- Bytes decode to a well-formed instruction, with some bytes left, exactly when they are its encoding
followed by those bytes. The byte order is the model's (log entry 4). -/
def Obligations.DecodeBytesIffEncode : Prop :=
  ∀ (bytes rest : List Byte) (i : Instr), i.wellFormed = true →
    (decode bytes = .ok (i, rest) ↔ bytes = encode i ++ rest)

/-- The words that R122 and R123 write out decode to the instructions they stand for, and the two words next
to PSB's and DSB's decode to none. -/
def Obligations.WordsOfTheTableDecode : Prop :=
  decodeWord 0xD5033F9F = .ok (.dsb 0b1111) ∧ decodeWord 0xD503309F = .ok (.dsb 0b0000) ∧
    decodeWord 0xD5033B9F = .ok (.dsb 0b1011) ∧ decodeWord 0xD503223F = .ok .psb ∧
    decodeWord 0xD503221F = .error .notInOpcodeTable ∧
    decodeWord 0xD5033FBF = .error .notInOpcodeTable

/-! ### The step -/

/-- The PE's turn: with an empty schedule, or a turn of the PE at its head, which leaves the schedule. In AArch64
state, where the bytes its fetch reaches decode to a well-formed instruction, the step is that instruction's meaning
on the state the fetch leaves: the table reads of the fetch are recorded as performed and the count of fetches has
gone up by one. Otherwise, in an implementation of the architecture, it runs no instruction: it stops with the fault
or the refusal of the fetch's translation, with the place that nothing has written, with bytes that are no
instruction of the spec, or, in AArch32 state, with that. The bytes are those that memory holds at the places, at
the moment of the fetch. The schedule (log entry 6), the record of the reads (log entry 23), the newest byte of
memory (log entry 41) and the four stops (log entries 3, 16, 26 and 36) are the model's. -/
def Obligations.StepRunsDecodedInstruction : Prop :=
  (∀ (s u : State),
    (s.pending = [] ∧ u = s) ∨
      (∃ turns, s.pending = .instruction :: turns ∧ u = { s with pending := turns }) →
    let run := fetchPlaces Config.openParameters u
    (s.cfg.wellFormed = true → usesAArch64 s.cfg s.ss s.el = false →
        step s = .refused .aarch32Instruction) ∧
      (usesAArch64 s.cfg s.ss s.el = true →
        (s.cfg.wellFormed = true →
          (∀ f, run.places = .fault f → step s = .fault (.mmu f)) ∧
            ∀ x, run.places = .refused x → step s = .refused x) ∧
        ∀ places, run.places = .ok places →
          (∀ space pa, readPlaces s.mem places = .error (space, pa) →
              step s = .fault (.unwrittenMemory space pa)) ∧
            ∀ bytes, readPlaces s.mem places = .ok bytes →
              (∀ e, decode bytes = .error e → step s = .refused .encodingNotInSpec) ∧
                ∀ i rest, i.wellFormed = true → decode bytes = .ok (i, rest) →
                  step s = exec i (u.afterFetch run.reads))) ∧
    ∀ (m : Memory) (places : List (PASpace × Nat)),
      (∀ bytes, readPlaces m places = .ok bytes ↔
          places.map (fun p => m.read p.1 p.2) = bytes.map some) ∧
        ∀ p, readPlaces m places = .error p → p ∈ places ∧ m.read p.1 p.2 = none

/-- In a configuration that is an implementation of the architecture a scheduled operation is what the step
performs, and it leaves the schedule (log entry 6); an implementation is a configuration whose PARange is not
reserved and whose PA size needs no FEAT_LPA that it lacks; any other is refused: it takes no step (the spec's
decision D12, log entry 19). -/
def Obligations.StepPerformsScheduledOperation : Prop :=
  ∀ (s : State) (op : Operation) (turns : List Turn),
    (s.cfg.wellFormed = true →
      step { s with pending := .operation op :: turns } =
        perform Config.openParameters op { s with pending := turns }) ∧
      (s.cfg.wellFormed = true ↔
        ∃ n, paRangeBits s.cfg.paRange = some n ∧ (n ≤ 48 ∨ s.cfg.featLPA = true)) ∧
      (paRangeBits s.cfg.paRange = none → step s = .refused .reservedPARange) ∧
      ∀ n, paRangeBits s.cfg.paRange = some n → 48 < n → s.cfg.featLPA = false →
        step s = .refused .paSizeNeedsLPA

/-- The configuration of the implementation never changes (R6, R270, R420). -/
def Obligations.StepKeepsConfiguration : Prop :=
  ∀ s t : State, step s = .next t → t.cfg = s.cfg

/-! ### The invariant -/

/-- The reset state meets the invariant. The reset values are the model's (log entries 1 and 2). -/
def Obligations.ResetMeetsInvariant : Prop := State.reset.inv = true

/-- Every step keeps the invariant: canonical memory of the implemented size, an implemented Exception level,
walk accesses that were permitted where they began, and results that exist and are permitted. Four clauses are
the model's: that without EL2 no stage 2 is enabled (log entry 18); that R251 and R252 bind the walks of the
profiling unit, which are kept in a list of their own (log entry 21); that a table read stands at one level from
-2 to 3 below the implemented PA size (log entry 8); and the form and the bound of memory (log entry 34). -/
def Obligations.StepKeepsInvariant : Prop :=
  ∀ s t : State, s.inv = true → step s = .next t → t.inv = true

/-! ### DSB and PSB -/

/-- DSB completes in every state, and after it every access of `InFlightWalkAccesses`, the walk accesses of the
PE's own walker agent, has been performed and none of them is in flight. That DSB has this effect in every
position and with every option, and that a completed access is a performed one, are the spec's decision D18
and log entry 22; the walk accesses of the profiling unit are held apart (log entry 21), and DsbNextState says
which of them stay in flight. -/
def Obligations.DsbCompletesWalkAccesses : Prop :=
  ∀ (crm : BitVec 4) (s : State), ∃ t, exec (.dsb crm) s = .next t ∧ t.inFlight = [] ∧
    ∀ a ∈ s.inFlight, a.read ∈ t.performed

/-- The whole next state of DSB, whatever its option: it performs the accesses in flight, and those of the
profiling unit that a PSB has marked or that were made at a lower Exception level at which the unit is not in
use; it moves on by the four bytes of an A64 instruction, and leaves everything else as it was. An access of
the unit that is not marked, made at a lower level at which the unit is in use or at a level that is not lower,
is still in flight: there the PSB is needed. The move of the PC, the marks, the record of what was performed and
the moment at which "in use" is judged are the model's (log entries 5, 21, 22, 43). -/
def Obligations.DsbNextState : Prop :=
  ∀ (crm : BitVec 4) (s : State),
    let covered (a : SpuAccess) : Bool :=
      a.marked || decide (a.access.el.num < s.el.num)
        && !(s.cfg.haveSPU && s.spuInUse.get a.access.el)
    exec (.dsb crm) s =
        .next { s with
          inFlight := []
          spuWalks := s.spuWalks.filter (fun a => !covered a)
          performed := s.performed ++ s.inFlight.map (fun a => a.read) ++
            (s.spuWalks.filter covered).map (fun a => a.access.read)
          pc := s.pc + 4 } ∧
      ∀ a ∈ s.spuWalks, a.marked = false →
        s.el.num ≤ a.access.el.num ∨ s.cfg.haveSPU = true ∧ s.spuInUse.get a.access.el = true →
        ∃ t, exec (.dsb crm) s = .next t ∧ a ∈ t.spuWalks

/-- The whole next state of PSB: where the profiling unit is implemented, its walk accesses made at a lower
Exception level are marked for the following DSB; it moves on by four bytes and leaves everything else as it
was, with `HaveSPU` false the marks too. The marks and the move of the PC are the model's (log entries 5 and
21). -/
def Obligations.PsbNextState : Prop :=
  ∀ s : State, exec .psb s =
    .next { s with
      spuWalks :=
        if s.cfg.haveSPU then
          s.spuWalks.map (fun a =>
            { a with marked := a.marked || decide (a.access.el.num < s.el.num) })
        else s.spuWalks
      pc := s.pc + 4 }

/-- Where the profiling unit is not in use at the lower Exception levels at which its walk accesses in flight
were made, a DSB executed after entering a higher Exception level leaves no walk access of a lower level in
flight, the unit's among them, and all of them have been performed; wherever the unit is in use, a PSB and
then a DSB do so. The model reads "observed" as performed (log entry 22); the marks, that "in use" is judged when
the DSB executes, and that an implemented EL2 can be the target where it is disabled (R22) are its own (log entries
21, 43 and 25). -/
def Obligations.ExceptionThenBarriersCompleteLowerWalks : Prop :=
  ∀ (o : OpenParameters) (s : State) (target : EL) (crm : BitVec 4),
    s.el.num < target.num → implementsEL s.cfg target = true →
    ((∀ a ∈ s.spuWalks, a.access.el.num < target.num → s.cfg.haveSPU = true →
          s.spuInUse.get a.access.el = false) →
        ∃ t u, perform o (.exceptionTo target) s = .next t ∧ exec (.dsb crm) t = .next u ∧
          u.inFlight = [] ∧ (∀ a ∈ u.spuWalks, ¬ a.access.el.num < target.num) ∧
          (∀ a ∈ s.inFlight, a.read ∈ u.performed) ∧
          ∀ a ∈ s.spuWalks, a.access.el.num < target.num → a.access.read ∈ u.performed) ∧
      ∃ t u v, perform o (.exceptionTo target) s = .next t ∧ exec .psb t = .next u ∧
        exec (.dsb crm) u = .next v ∧ v.inFlight = [] ∧
        (∀ a ∈ v.spuWalks, ¬ a.access.el.num < target.num) ∧
        (∀ a ∈ s.inFlight, a.read ∈ v.performed) ∧
        ∀ a ∈ s.spuWalks, a.access.el.num < target.num → a.access.read ∈ v.performed

/-! ### Exceptions and the walker -/

/-- An exception to a higher, implemented Exception level changes the Exception level and nothing else: the
walk accesses in flight stay in flight (R253, R389). A return to a lower, implemented one changes the Exception
level, settles every enable that was still open, and changes nothing else (R390). Setting the Security state,
an input of the model, changes nothing else. The checks on the target, an implemented EL2 that is disabled (R22)
passing them, and that nothing is saved and the PC stays are the model's (log entries 25 and 45), and so are the
settling of enables (log entry 12) and the operation on the Security state (D15, log entry 14). -/
def Obligations.ContextOperationsChangeOnlyTheContext : Prop :=
  ∀ (o : OpenParameters) (s : State) (target : EL),
    (s.el.num < target.num → implementsEL s.cfg target = true →
        perform o (.exceptionTo target) s = .next { s with el := target }) ∧
      (target.num < s.el.num → implementsEL s.cfg target = true →
        perform o (.exceptionReturn target) s = .next { s with el := target, unsettled := [] }) ∧
      ∀ ss, perform o (.setSecurityState ss) s = .next { s with ss := ss }

/-- While execution is at EL2 or EL3, no step of the machine begins a walk of an EL1&0 regime, and while it is
at EL3 none of an EL2 or EL2&0 regime either, neither for the PE nor for the profiling unit. R251 and R252
speak of the PE; that they bind the unit's walks too is the model's (log entry 21), and with the Trace Buffer
Unit enabled they may not hold as written (R258, log entry 20). -/
def Obligations.NoOutOfContextWalkBegins : Prop :=
  ∀ s t : State, step s = .next t → ∀ w : World,
    (s.el = .el2 ∨ s.el = .el3 →
        (∀ a ∈ t.inFlight, a.regime = .el10 w → a ∈ s.inFlight) ∧
          ∀ a ∈ t.spuWalks, a.access.regime = .el10 w → ∃ b ∈ s.spuWalks, b.access = a.access) ∧
      (s.el = .el3 →
        (∀ a ∈ t.inFlight, a.regime = .el2 w ∨ a.regime = .el20 w → a ∈ s.inFlight) ∧
          ∀ a ∈ t.spuWalks, a.access.regime = .el2 w ∨ a.access.regime = .el20 w →
            ∃ b ∈ s.spuWalks, b.access = a.access)

/-- A walk that the walker begins speculatively, of a regime it may walk at the current Exception level, adds to
the accesses in flight exactly one access for each table read of the translation of the VA in that regime,
marked with the regime and the level; no fault is reported and nothing else changes (R261). The context of the
walk, that nothing changes where the walk is not permitted, and the moment its reads are fixed are the model's
(log entries 32 and 42). The walker may walk every regime at EL0 and at EL1, every regime but the EL1&0 ones at
EL2, and the EL3 regime at EL3 (R251, R252). -/
def Obligations.SpeculativeWalkOnlyAddsAccesses : Prop :=
  ∀ (o : OpenParameters) (s : State) (r : Regime) (va : VA),
    ∃ l, perform o (.walkerBegin r va) s = .next { s with inFlight := s.inFlight ++ l } ∧
      (walkPermitted s.el r = true → l = speculativeAccesses o s r va ∧
        l.map (fun a => a.read) = (translateIn o s (s.walkerContext r) r va.toNat).reads) ∧
      (walkPermitted s.el r = false → l = []) ∧ (∀ a ∈ l, a.regime = r ∧ a.el = s.el) ∧
      (walkPermitted s.el r = true ↔
        s.el = .el0 ∨ s.el = .el1 ∨ s.el = .el2 ∧ (∀ w, r ≠ .el10 w) ∨ s.el = .el3 ∧ r = .el3) ∧
      ∀ w, s.walkerContext (.el10 w) = { s.ctx with ss := w.ss, el := .el1 } ∧
        s.walkerContext (.el20 w) = { s.ctx with ss := w.ss, el := .el2 } ∧
        s.walkerContext (.el2 w) = { s.ctx with ss := w.ss, el := .el2 } ∧
        s.walkerContext .el3 = { s.ctx with ss := if s.el = .el3 then s.ss else .root, el := .el3 }

/-- The walker performs any one of the accesses in flight, and the profiling unit any one of its own, in
whatever order: that access leaves the list, its read is recorded as performed, and nothing else changes; where
there is no such access nothing changes. The record is the model's (log entry 23), and so are the unit's own
list (log entry 21) and that a missing access is no error (log entry 32). -/
def Obligations.PerformedAccessesLeaveFlight : Prop :=
  ∀ (o : OpenParameters) (s : State) (n : Nat),
    (∀ a, s.inFlight[n]? = some a → perform o (.walkerPerform n) s =
        .next { s with inFlight := s.inFlight.eraseIdx n, performed := s.performed ++ [a.read] }) ∧
      (s.inFlight.length ≤ n → perform o (.walkerPerform n) s = .next s) ∧
      (∀ a, s.spuWalks[n]? = some a → perform o (.spuPerform n) s =
        .next { s with
          spuWalks := s.spuWalks.eraseIdx n, performed := s.performed ++ [a.access.read] }) ∧
      (s.spuWalks.length ≤ n → perform o (.spuPerform n) s = .next s)

/-- The profiling unit comes into or goes out of use at one Exception level, and at no other. A walk begun on
its behalf, where the implementation has the unit, it is in use at the current level and the regime may be
walked there, adds the accesses of a speculative walk to the unit's own list, none of them marked; elsewhere
nothing changes. The unit's list and the flags of its use (log entry 21), the context of the walk (log entry 32)
and the moment its reads are fixed (log entry 42) are the model's. -/
def Obligations.ProfilingUnitWalks : Prop :=
  ∀ (o : OpenParameters) (s : State) (r : Regime) (va : VA) (el : EL) (b : Bool),
    (∃ u, perform o (.spuSetInUse el b) s = .next { s with spuInUse := u } ∧ u.get el = b ∧
        ∀ el', el' ≠ el → u.get el' = s.spuInUse.get el') ∧
      (s.cfg.haveSPU = true ∧ s.spuInUse.get s.el = true ∧ walkPermitted s.el r = true →
        perform o (.spuBegin r va) s =
          .next { s with
            spuWalks := s.spuWalks ++ (speculativeAccesses o s r va).map (fun a =>
              { access := a, marked := false }) }) ∧
      (¬(s.cfg.haveSPU = true ∧ s.spuInUse.get s.el = true ∧ walkPermitted s.el r = true) →
        perform o (.spuBegin r va) s = .next s)

/-! ### Registers and privilege -/

/-- A System register can be accessed from an Exception level exactly when that level is at least the one
its name's suffix gives (R26): a value that fits a field can be set, and the field read, just there; a field
of ID_AA64MMFR0_EL1 can be read from EL1 and above. The registers of each suffix are
those listed. -/
def Obligations.RegisterAccessFollowsTheSuffix : Prop :=
  ∀ (o : OpenParameters) (s : State) (f : SysField) (v : Nat) (i : IdField), f.fits v = true →
    ((∃ t, perform o (.setField f v) s = .next t) ↔ f.reg.lowestEL.num ≤ s.el.num) ∧
      ((∃ t, perform o (.readField f) s = .next t) ↔ f.reg.lowestEL.num ≤ s.el.num) ∧
      ((∃ t, perform o (.readId i) s = .next t) ↔ s.el ≠ .el0) ∧
      [EL.el0, .el1, .el2, .el3].map EL.num = [0, 1, 2, 3] ∧
      ∀ r : SysReg,
        (r.lowestEL = .el1 ↔ r ∈ [.sctlrEL1, .sctlr2EL1, .tcrEL1, .tcr2EL1, .mairEL1, .mair2EL1, .amairEL1,
          .amair2EL1, .ttbr0EL1, .ttbr1EL1]) ∧
        (r.lowestEL = .el2 ↔ r ∈ [.sctlrEL2, .sctlr2EL2, .tcrEL2, .tcr2EL2, .mairEL2, .mair2EL2, .amairEL2,
          .amair2EL2, .ttbr0EL2, .ttbr1EL2, .vtcrEL2, .vttbrEL2, .vstcrEL2, .vsttbrEL2, .hcrEL2]) ∧
        (r.lowestEL = .el3 ↔ r ∈ [.sctlrEL3, .sctlr2EL3, .tcrEL3, .mairEL3, .mair2EL3, .amairEL3, .amair2EL3,
          .ttbr0EL3, .scrEL3])

/-- Setting a field to a value that fits it, where the register is accessible, completes: the field reads as
that value, every other field of every register reads as before, and nothing but the registers changes, the PC
staying where it is by the model's choice (R24 leaves it open: log entry 45). A TnSZ
holds 0 to 63, an {I}PS three bits, and DS, D128, E2H, TGE, NSE, NS and EEL2 one bit (R125, R126); a part of a
register without a stated width holds any number; another value is refused (log entries 29 and 35). -/
def Obligations.SetFieldSetsOneField : Prop :=
  ∀ (o : OpenParameters) (s : State) (f : SysField) (v : Nat),
    f.reg.lowestEL.num ≤ s.el.num →
    (f.fits v = true →
        ∃ r, perform o (.setField f v) s = .next { s with regs := r } ∧ r.read f = v ∧
          ∀ g, g ≠ f → r.read g = s.regs.read g) ∧
      (f.fits v = false → perform o (.setField f v) s = .refused .valueDoesNotFit) ∧
      ((∃ r, f = .t0sz r) ∨ (∃ r, f = .t1sz r) → (f.fits v = true ↔ v < 64)) ∧
      ((∃ r, f = .oaSize r) → (f.fits v = true ↔ v < 8)) ∧
      ((∃ r, f = .ds r) ∨ (∃ r, f = .d128 r) ∨ f ∈ [.e2h, .tge, .nse, .ns, .eel2] →
        (f.fits v = true ↔ v < 2)) ∧
      ((∃ r, f = .rest r) → f.fits v = true)

/-- A field reads back as its value, whatever the hardware does with it (R322). From EL1 and above,
ID_AA64MMFR0_EL1.PARange reads as the four bits of the configuration; a TGran field reads as a free value that
depends on the field and on the stage 1 support it reports, and a TGran_2 field, with FEAT_GTG, on the stage 2
support (R50, log entry 11). Reading changes nothing but the model's own list of results (log entry 23);
that the PC stays where it is is the model's choice too (R24 leaves it open: log entry 45). -/
def Obligations.ReadsShowTheRegister : Prop :=
  ∀ (o : OpenParameters) (s : State) (f : SysField) (g : Granule),
    (f.reg.lowestEL.num ≤ s.el.num → perform o (.readField f) s =
        .next { s with observations := s.observations ++ [.field f (s.regs.read f)] }) ∧
      (s.el ≠ .el0 →
        perform o (.readId .paRange) s =
            .next { s with
              observations := s.observations ++ [.idField .paRange s.cfg.paRange.toNat] } ∧
          perform o (.readId (.tgran g)) s =
            .next { s with
              observations := s.observations ++
                [.idField (.tgran g) (o.tgranValue (.tgran g) (granuleSupported s.cfg .one g))] } ∧
          ∃ b, (s.cfg.featGTG = true → b = granuleSupported s.cfg .two g) ∧
            perform o (.readId (.tgranStage2 g)) s =
              .next { s with
                observations := s.observations ++
                  [.idField (.tgranStage2 g) (o.tgranValue (.tgranStage2 g) b)] })

/-- Tables D8-3 and D8-4: the registers that control each of the thirteen stages, the Exception level and the
Security state that each stage is controlled from (none is given for EL3), and the registers that each common
abbreviation stands for at EL1, EL2 and EL3. Then, for each stage, range and IPA space, the register whose {I}PS
and DS serve it, the TnSZ field that configures its IA size, its table base register and its D128 control: T1SZ
and TTBR1 for an upper range, T0SZ and TTBR0 for another, VSTCR_EL2.T0SZ and VSTTBR_EL2 for a Secure IPA,
VTCR_EL2.T0SZ and VTTBR_EL2 for another. That VTCR_EL2 serves a Secure stage 2 with its {I}PS and DS is the
model's (D25, log entry 30). -/
def Obligations.RegistersOfEachStage : Prop :=
  let el2 : List SysReg := [.sctlrEL2, .sctlr2EL2, .tcrEL2, .tcr2EL2, .mairEL2, .mair2EL2, .amairEL2,
    .amair2EL2, .ttbr0EL2]
  let el10 : List SysReg := [.sctlrEL1, .sctlr2EL1, .tcrEL1, .tcr2EL1, .mairEL1, .mair2EL1, .amairEL1,
    .amair2EL1, .ttbr0EL1, .ttbr1EL1, .hcrEL2]
  let two : List SysReg := [.sctlrEL2, .sctlr2EL2, .vtcrEL2, .vttbrEL2, .hcrEL2]
  (∀ w, w = .nonSecure ∨ w = .realm →
      controllingRegisters (.one (.el2 w)) = el2 ∧
      controllingRegisters (.one (.el20 w)) = el2 ++ [.ttbr1EL2, .hcrEL2] ∧
      controllingRegisters (.two w) = two ∧ controllingRegisters (.one (.el10 w)) = el10) ∧
    controllingRegisters (.one (.el2 .secure)) = el2 ++ [.scrEL3] ∧
    controllingRegisters (.one (.el20 .secure)) = el2 ++ [.ttbr1EL2, .hcrEL2, .scrEL3] ∧
    controllingRegisters (.two .secure) = [.sctlrEL2, .sctlr2EL2, .vstcrEL2, .vsttbrEL2, .vtcrEL2,
      .vttbrEL2, .hcrEL2, .scrEL3] ∧
    controllingRegisters (.one (.el10 .secure)) = el10 ++ [.scrEL3] ∧
    controllingRegisters (.one .el3) = [.sctlrEL3, .sctlr2EL3, .scrEL3, .tcrEL3, .mairEL3, .mair2EL3,
      .amairEL3, .amair2EL3, .ttbr0EL3] ∧
    ([CommonReg.amair, .amair2, .mair, .mair2, .sctlr, .sctlr2, .tcrStage1, .tcrStage2, .tcr2,
        .ttbrStage1, .ttbrStage2, .ttbrn, .ttbr0, .ttbr1].map fun c =>
          [c.registers .el1, c.registers .el2, c.registers .el3]) =
      [[[.amairEL1], [.amairEL2], [.amairEL3]], [[.amair2EL1], [.amair2EL2], [.amair2EL3]],
        [[.mairEL1], [.mairEL2], [.mairEL3]], [[.mair2EL1], [.mair2EL2], [.mair2EL3]],
        [[.sctlrEL1], [.sctlrEL2], [.sctlrEL3]], [[.sctlr2EL1], [.sctlr2EL2], [.sctlr2EL3]],
        [[.tcrEL1], [.tcrEL2], [.tcrEL3]], [[], [.vtcrEL2, .vstcrEL2], []],
        [[.tcr2EL1], [.tcr2EL2], []],
        [[.ttbr0EL1, .ttbr1EL1], [.ttbr0EL2, .ttbr1EL2], [.ttbr0EL3]],
        [[], [.vttbrEL2, .vsttbrEL2], []],
        [[.ttbr0EL1, .ttbr1EL1], [.ttbr0EL2, .ttbr1EL2], [.ttbr0EL3]],
        [[.ttbr0EL1], [.ttbr0EL2], [.ttbr0EL3]], [[.ttbr1EL1], [.ttbr1EL2], []]] ∧
    (∀ w, [tcrOf (.one (.el10 w)), tcrOf (.one (.el20 w)), tcrOf (.one (.el2 w)), tcrOf (.one .el3),
          tcrOf (.two w)] = [.tcrEL1, .tcrEL2, .tcrEL2, .tcrEL3, .vtcrEL2] ∧
        [d128ControlOf (.one (.el10 w)), d128ControlOf (.one (.el20 w)), d128ControlOf (.one (.el2 w)),
          d128ControlOf (.one .el3), d128ControlOf (.two w)] =
          [some .tcr2EL1, some .tcr2EL2, none, some .tcrEL3, some .vtcrEL2] ∧
        tnszField (.el10 w) .upper = .t1sz .tcrEL1 ∧ tableBase (.el10 w) .upper = .ttbr1EL1 ∧
        tnszField (.el10 w) .lower = .t0sz .tcrEL1 ∧ tableBase (.el10 w) .lower = .ttbr0EL1 ∧
        tnszField (.el20 w) .upper = .t1sz .tcrEL2 ∧ tableBase (.el20 w) .upper = .ttbr1EL2 ∧
        tnszField (.el20 w) .lower = .t0sz .tcrEL2 ∧ tableBase (.el20 w) .lower = .ttbr0EL2 ∧
        tnszField (.el2 w) .single = .t0sz .tcrEL2 ∧ tableBase (.el2 w) .single = .ttbr0EL2) ∧
    tnszField .el3 .single = .t0sz .tcrEL3 ∧ tableBase .el3 .single = .ttbr0EL3 ∧
    t0szFieldS2 .secure = .t0sz .vstcrEL2 ∧ tableBaseS2 .secure = .vsttbrEL2 ∧
    (∀ space, space ≠ .secure → t0szFieldS2 space = .t0sz .vtcrEL2 ∧ tableBaseS2 space = .vttbrEL2) ∧
    (∀ w, [controlledFromEL (.one (.el10 w)), controlledFromEL (.one (.el20 w)),
          controlledFromEL (.one (.el2 w)), controlledFromEL (.one .el3), controlledFromEL (.two w)] =
          [.el1, .el2, .el2, .el3, .el2] ∧
        [controlledFromWorld (.one (.el10 w)), controlledFromWorld (.one (.el20 w)),
          controlledFromWorld (.one (.el2 w)), controlledFromWorld (.one .el3), controlledFromWorld (.two w)] =
          [some w, some w, some w, none, some w]) ∧
    (∀ r range inSpace, tnszUsed (.one r) range inSpace = tnszField r range) ∧
    ∀ w range space, tnszUsed (.two w) range (some space) = t0szFieldS2 space

/-- Software at EL0 changes no System register, enables or disables no stage and selects no granule. Who may
enable a stage or select a granule is the model's reading of Table D8-3 (log entry 15). -/
def Obligations.EL0ChangesNoTranslationControl : Prop :=
  ∀ s t : State, s.el = .el0 → step s = .next t →
    t.regs = s.regs ∧ t.enabled = s.enabled ∧ t.granules = s.granules

/-- Software controls a stage at the level from which Table D8-3 has it controlled, if that is implemented, or
above, in the Security state of the table, or at EL3; elsewhere enabling or disabling the stage and selecting a
granule of it are refused. Enabling or disabling a stage from where it is controlled sets that stage's state and
no other stage's; the stage becomes unsettled exactly if its state changes while it translates the software
itself, no other stage becomes or ceases to be unsettled, and nothing else changes. Control, the unsettled stages,
and that the PC stays where it is (R24 leaves it open) are the model's (log entries 15, 12 and 45). -/
def Obligations.SetEnabledSetsOneStage : Prop :=
  ∀ (o : OpenParameters) (s : State) (st : Stage) (b : Bool),
    (s.controls st = true ↔ implementsEL s.cfg (controlledFromEL st) = true ∧
        (controlledFromEL st).num ≤ s.el.num ∧
        (s.el = .el3 ∨ ∃ w, controlledFromWorld st = some w ∧ w.ss = s.ss)) ∧
    (s.controls st = false →
        perform o (.setEnabled st b) s = .refused .stageNotControlledHere ∧
          ∀ range g, perform o (.setGranule st range g) s = .refused .stageNotControlledHere) ∧
    (s.translatedBy st = true ↔ ∃ r, regimeOf s.ctx = some r ∧
        (st = .one r ∨ ∃ w, st = .two w ∧ stage2Of s.cfg r s.ctx = some w)) ∧
    (s.controls st = true →
      ∃ e u, perform o (.setEnabled st b) s = .next { s with enabled := e, unsettled := u } ∧
        e.get st = b ∧ (∀ st', st' ≠ st → e.get st' = s.enabled.get st') ∧
        ∀ st', st' ∈ u ↔
          st' ∈ s.unsettled ∨ st' = st ∧ s.translatedBy st = true ∧ s.enabled.get st ≠ b)

/-- Granules. Software that controls a stage sets the granule of one of its ranges: that range has it, a range
with a place of its own keeps its granule, every other stage keeps both, and nothing else changes (control, the
two places of a stage 1, and that the PC stays where it is, which R24 leaves open, are the model's: D4, log entries
15 and 45). Support is what the TGran fields report for
both stages without FEAT_GTG, and with it what TGran reports for stage 1 and TGran_2 for stage 2. An enabled
stage with an unsupported granule is refused, with no table read (D4, log entry 19). -/
def Obligations.GranuleSelectionAndSupport : Prop :=
  ∀ (o : OpenParameters) (s : State),
    (∀ (st : Stage) (range : VARange) (g : Granule), s.controls st = true →
      ∃ t, perform o (.setGranule st range g) s = .next t ∧ granuleOf t st range = g ∧
        (range = .upper → granuleOf t st .lower = granuleOf s st .lower) ∧
        (range ≠ .upper → granuleOf t st .upper = granuleOf s st .upper) ∧
        (∀ st' range', st' ≠ st → granuleOf t st' range' = granuleOf s st' range') ∧
        t = { s with granules := t.granules }) ∧
      (∀ k, [granuleSupported s.cfg k .g4KB, granuleSupported s.cfg k .g16KB,
          granuleSupported s.cfg k .g64KB] =
        if k = .two ∧ s.cfg.featGTG = true then
          [s.cfg.tgran4Stage2, s.cfg.tgran16Stage2, s.cfg.tgran64Stage2]
        else [s.cfg.tgran4, s.cfg.tgran16, s.cfg.tgran64]) ∧
      ∀ (c : Context) (st : Stage) (ia : Nat) (inSpace : Option PASpace), s.enabled.get st = true →
        granuleSupported s.cfg st.number (granuleOf s st (stageRange st ia)) = false →
        translateStage o s c st ia inSpace = { result := .refused .granuleNotSupported, reads := [] }

/-- A fetch translates the PC as an access in the PE's own context, and its four bytes stand one after the other
from the PA on; where they span two blocks of 4KB, the smallest page, each block is translated. A fault or a
refusal of the translation is the fetch's. It sees every stage that is not unsettled in its current state (R424):
only an enable that software made of a stage that translates the software itself leaves a choice open. How long
it does (log entry 12), the split (log entry 27) and the addresses at the top of the VA space (log entry 40) are
the model's. -/
def Obligations.FetchTranslatesThePC : Prop :=
  ∀ (o : OpenParameters) (s : State),
    let s' := s.forFetch o
    let run := translate o s' s.ctx s.pc
    s' = { s with enabled := s'.enabled } ∧
      (∀ st, st ∉ s.unsettled → s'.enabled.get st = s.enabled.get st) ∧
      (∀ f, run.result = .fault f → (fetchPlaces o s).places = .fault f) ∧
      (∀ r, run.result = .refused r → (fetchPlaces o s).places = .refused r) ∧
      ∀ pa space info, run.result = .ok pa space info →
        (s.pc.toNat % 4096 ≤ 4092 → fetchPlaces o s =
          { places := .ok [(space, pa), (space, pa + 1), (space, pa + 2), (space, pa + 3)]
            reads := run.reads }) ∧
        ∀ n, s.pc.toNat % 4096 + n = 4096 → n < 4 →
          let run2 := translate o s' s.ctx (s.pc + BitVec.ofNat 64 n)
          (∀ f, run2.result = .fault f → (fetchPlaces o s).places = .fault f) ∧
            (∀ x, run2.result = .refused x → (fetchPlaces o s).places = .refused x) ∧
            ∀ pa2 space2 info2, run2.result = .ok pa2 space2 info2 →
              fetchPlaces o s =
                { places := .ok ((List.range n).map (fun i => (space, pa + i)) ++
                    (List.range (4 - n)).map (fun i => (space2, pa2 + i)))
                  reads := run.reads ++ run2.reads }

/-- A virtual address placed in the PC, an SP, the LR or the ELR is there afterwards, and no other of these
registers changes; an access through one of them is an access at the address it holds (R74). Which of them
there are is the model's (log entry 28), and so are that an access through the PC is made at the address of the next
instruction, with no offset (log entry 46), and that placing an address in another of them leaves the PC (log entry
45). -/
def Obligations.AddressRegistersHoldVirtualAddresses : Prop :=
  ∀ (o : OpenParameters) (s : State) (r : AddrReg) (va : VA),
    (∃ t, perform o (.setAddr r va) s = .next t ∧ t.readAddr r = va ∧
      (∀ r', r' ≠ r → t.readAddr r' = s.readAddr r') ∧
      t = { s with pc := t.pc, sp := t.sp, lr := t.lr, elr := t.elr }) ∧
    perform o (.accessVia r) s = perform o (.access (s.readAddr r)) s

/-! ### Memory -/

/-- A byte that another agent writes at an address that exists reads back, every other byte of every PA
space reads as before, the memory keeps its canonical form, and nothing but memory changes. The operation is
the model's (log entry 34). -/
def Obligations.MemWriteSetsOneByte : Prop :=
  ∀ (o : OpenParameters) (s : State) (space : PASpace) (pa : Nat) (b : Byte),
    pa < 2 ^ paSize s.cfg →
    ∃ m, perform o (.memWrite space pa b) s = .next { s with mem := m } ∧
      m.read space pa = some b ∧
      (∀ space' pa', ¬(space' = space ∧ pa' = pa) → m.read space' pa' = s.mem.read space' pa') ∧
      (s.mem.wf = true → m.wf = true)

/-! ### Regimes -/

/-- The regime of a context is selected by the Security state, the Exception level and the Effective values
of HCR_EL2.{E2H, TGE} and SCR_EL3.EEL2, as the selection rules of the ten regimes say, and by nothing else.
-/
def Obligations.RegimeSelection : Prop :=
  ∀ (c : Context) (w : World),
    (regimeOf c = some (.el10 w) ↔
      c.ss = w.ss ∧ (c.el = .el1 ∨ c.el = .el0 ∧ ¬(c.e2h = true ∧ c.tge = true))) ∧
    (regimeOf c = some (.el20 w) ↔
      c.ss = w.ss ∧ (w = .secure → c.eel2 = true) ∧
        (c.el = .el2 ∧ c.e2h = true ∨ c.el = .el0 ∧ c.e2h = true ∧ c.tge = true)) ∧
    (regimeOf c = some (.el2 w) ↔
      c.ss = w.ss ∧ (w = .secure → c.eel2 = true) ∧ c.e2h = false ∧ c.el = .el2) ∧
    (regimeOf c = some .el3 ↔ c.el = .el3)

/-- Only the EL1&0 regimes have a stage 2: the Non-secure one if EL2 is implemented, the Secure one if Secure
EL2 is enabled, the Realm one always, as `HasStage2` of R176 says, and a translation goes through it (R82). Without
EL2 every address is mapped by stage 1 alone, as R220 says, with the reads of stage 1 and the OA of stage 1 as
the PA: the stage 2 that the Realm EL1&0 regime has there is disabled in every state that meets the invariant.
That is the model's, and so is that this disabled stage gives the space and the attributes (R82, log entry 18). -/
def Obligations.Stage2Existence : Prop :=
  (∀ (cfg : Config) (c : Context),
    hasStage2 cfg (.el10 .nonSecure) c = cfg.haveEL2 ∧
    hasStage2 cfg (.el10 .secure) c = (cfg.haveEL2 && c.eel2) ∧
    hasStage2 cfg (.el10 .realm) c = true ∧
    (∀ r, (∀ w, r ≠ .el10 w) → hasStage2 cfg r c = false) ∧
    ∀ r w, stage2Of cfg r c = some w ↔ r = .el10 w ∧ hasStage2 cfg r c = true) ∧
  ∀ (o : OpenParameters) (s : State) (c : Context) (r : Regime) (va oa : Nat) (space : PASpace)
    (level : Option Int) (info : Info),
    s.inv = true → s.cfg.haveEL2 = false →
    (translateStage o s c (.one r) va none).result = .ok oa space level info →
    ∃ space' info', translateIn o s c r va =
      { result := .ok oa space' info', reads := (translateStage o s c (.one r) va none).reads }

/-- A stage uses VMSAv9-128 exactly when the D128 field that names it is 1, in an implementation that
supports VMSAv9-128, whether the stage is enabled or not; an EL2 regime never does; and in an implementation
that does not support it every stage uses VMSAv8-64. -/
def Obligations.SystemSelection : Prop :=
  ∀ (s : State) (w : World),
    (s.cfg.supportsVMSAv9_128 = true →
      (usesVMSAv9_128 s (.one (.el10 w)) = true ↔ s.regs.read (.d128 .tcr2EL1) = 1) ∧
      (usesVMSAv9_128 s (.one (.el20 w)) = true ↔ s.regs.read (.d128 .tcr2EL2) = 1) ∧
      (usesVMSAv9_128 s (.one .el3) = true ↔ s.regs.read (.d128 .tcrEL3) = 1) ∧
      (usesVMSAv9_128 s (.two w) = true ↔ s.regs.read (.d128 .vtcrEL2) = 1) ∧
      usesVMSAv9_128 s (.one (.el2 w)) = false) ∧
    (s.cfg.supportsVMSAv9_128 = false → ∀ st, usesVMSAv9_128 s st = false) ∧
    ∀ st, systemOf s st = if usesVMSAv9_128 s st = true then .vmsav9_128 else .vmsav8_64

/-- Table D8-2, row by row, and the well-formed contexts of R223, in which the Exception level of the access is
implemented. A translation that is not refused is made in a well-formed context, for which Table D8-2 holds in
every stage of its regime, in a configuration that is an implementation of the architecture. -/
def Obligations.TranslatedContextsAreWellFormed : Prop :=
  (∀ (cfg : Config) (c : Context),
    let el2 := cfg.haveEL2 = true ∧ cfg.usesAArch64.el2 = true
    let pair (nse ns : Bool) := c.nse = nse ∧ c.ns = ns
    let holds (st : Stage) := stageRequirementsHold cfg st c = true
    (holds (.one (.el2 .nonSecure)) ↔ el2 ∧ pair false true ∧ c.e2h = false) ∧
      (holds (.one (.el20 .nonSecure)) ↔ el2 ∧ pair false true ∧ c.e2h = true) ∧
      (holds (.two .nonSecure) ↔ el2 ∧ pair false true) ∧
      (holds (.one (.el10 .nonSecure)) ↔ cfg.usesAArch64.el1 = true ∧ pair false true) ∧
      (holds (.one (.el2 .secure)) ↔ el2 ∧ c.eel2 = true ∧ pair false false ∧ c.e2h = false) ∧
      (holds (.one (.el20 .secure)) ↔ el2 ∧ c.eel2 = true ∧ pair false false ∧ c.e2h = true) ∧
      (holds (.two .secure) ↔ el2 ∧ c.eel2 = true ∧ pair false false) ∧
      (holds (.one (.el10 .secure)) ↔ cfg.usesAArch64.el1 = true ∧ pair false false) ∧
      (holds (.one (.el2 .realm)) ↔ cfg.featRME = true ∧ pair true true ∧ c.e2h = false) ∧
      (holds (.one (.el20 .realm)) ↔ cfg.featRME = true ∧ pair true true ∧ c.e2h = true) ∧
      (holds (.two .realm) ↔ cfg.featRME = true ∧ pair true true) ∧
      (holds (.one (.el10 .realm)) ↔ cfg.featRME = true ∧ pair true true) ∧
      (holds (.one .el3) ↔ cfg.haveEL3 = true ∧ cfg.usesAArch64.el3 = true) ∧
      [EL.el0, .el1, .el2, .el3].map (implementsEL cfg) = [true, true, cfg.haveEL2, cfg.haveEL3] ∧
      (contextWellFormed cfg c = true ↔ implementsEL cfg c.el = true ∧
        (c.el = .el3 ∧ holds (.one .el3) ∨
          c.el ≠ .el3 ∧
            (c.ss = .nonSecure ∧ pair false true ∨ c.ss = .secure ∧ pair false false ∨
              c.ss = .realm ∧ pair true true) ∧
            ∃ r, regimeOf c = some r ∧ holds (.one r) ∧
              ∀ w, r = .el10 w → hasStage2 cfg r c = true → holds (.two w)))) ∧
  ∀ (o : OpenParameters) (s : State) (c : Context) (va : VA),
    (∀ r, (translate o s c va).result ≠ .refused r) →
    contextWellFormed s.cfg c = true ∧ s.cfg.wellFormed = true ∧
      ∃ r, regimeOf c = some r ∧ stageRequirementsHold s.cfg (.one r) c = true ∧
        ∀ w, stage2Of s.cfg r c = some w → stageRequirementsHold s.cfg (.two w) c = true

/-- What is refused. In an implementation without EL2 every regime that is neither an EL1&0 nor the EL3 regime,
and, without EL3 too, every EL1&0 regime but that of `SoleSecurityState` (R220, log entry 18). In an EL2 regime
the reserved value 0b111 of TCR_EL2.PS (D13, log entry 19). An access from an Exception level that is not
implemented (D14). An access of FEAT_NV2, the profiling unit or the Trace Buffer under a regime that the
executing context does not use (D17, log entry 20). Nothing else is refused before a translation: the list of the
last clause, with the refusals of AArch32 (log entries 16 and 47), is complete. -/
def Obligations.RegimesAndAccessesRefused : Prop :=
  ∀ (o : OpenParameters) (s : State) (c : Context) (va : VA) (r : Regime),
    s.cfg.wellFormed = true → regimeOf c = some r →
    (contextWellFormed s.cfg c = true → s.cfg.haveEL2 = false →
        (∀ w, r ≠ .el10 w) ∧ r ≠ .el3 ∨
          (∃ w, r = .el10 w ∧ s.cfg.haveEL3 = false ∧ w.ss ≠ s.cfg.soleSecurityState) →
        (translate o s c va).result = .refused .regimeNotProvided) ∧
      (contextRefusal s.cfg c r = none → (∃ w, r = .el2 w) → s.regs.read (.oaSize .tcrEL2) = 0b111 →
        (translate o s c va).result = .refused .reservedOASize) ∧
      (implementsEL s.cfg c.el = false → (translate o s c va).result = .refused .contextNotWellFormed) ∧
      (∀ u, perform o (.unitAccess u va) s = .refused (.otherUnitAccess u)) ∧
      (regimeProvided s.cfg r = true ↔ s.cfg.haveEL2 = true ∨ (r = .el3 ∧ s.cfg.haveEL3 = true) ∨
        ∃ w, r = .el10 w ∧ (s.cfg.haveEL3 = true ∨ w.ss = s.cfg.soleSecurityState)) ∧
      (translationRefusal s c r = none ↔
        contextWellFormed s.cfg c = true ∧ regimeProvided s.cfg r = true ∧
          ¬((∃ w, r = .el2 w) ∧ s.regs.read (.oaSize .tcrEL2) = 0b111) ∧
          (c.el = .el0 → s.cfg.usesAArch64.el0 = false →
            (c.ss = .realm → s.cfg.realmEL0AArch32 = true) ∧ usesVMSAv9_128 s (.one r) = false) ∧
          ∀ w, stage2Of s.cfg r c = some w → s.cfg.haveEL2 = true → usesAArch64 s.cfg w.ss .el2 = true →
            usesAArch64 s.cfg w.ss .el1 = false ∨ usesAArch64 s.cfg w.ss .el0 = false →
            usesVMSAv9_128 s (.two w) = false)

/-- AArch32. An access from EL0 in AArch32 state is translated at the low 32 bits of its VA, which are never in
an upper range (R228); it is refused through a VMSAv9-128 stage 1 (R226, D17), and from Realm EL0 without the
support of R169 (P2). Where EL1 or EL0 uses AArch32 and EL2 uses AArch64, every access through a VMSAv9-128
stage 2 is refused, whichever level makes it (R227). The refusals are the model's treatment of a requirement
that software breaks (log entry 16). In Realm state EL1 and EL2 use AArch64, whatever the configuration says of
them (R169, log entry 17); that EL0 counts there as AArch32 where the configuration says so, without the support of
R169 too, is the model's (log entry 47). -/
def Obligations.AArch32NeedsVMSAv8 : Prop :=
  ∀ (o : OpenParameters) (s : State) (c : Context) (va : VA) (r : Regime),
    s.cfg.wellFormed = true → regimeOf c = some r →
    (c.el = .el0 → s.cfg.usesAArch64.el0 = false →
        translate o s c va = translate o s c (BitVec.ofNat 64 (va.toNat % 2 ^ 32)) ∧
          selectRange r (va.toNat % 2 ^ 32) ≠ .upper ∧
          (contextRefusal s.cfg c r = none → usesVMSAv9_128 s (.one r) = true →
            (translate o s c va).result = .refused .aarch32NeedsVMSAv8) ∧
          (c.ss = .realm → s.cfg.realmEL0AArch32 = false → contextWellFormed s.cfg c = true →
            regimeProvided s.cfg r = true →
            (translate o s c va).result = .refused .realmEL0AArch32)) ∧
      (∀ ss el, usesAArch64 s.cfg ss el =
        (decide (ss = .realm ∧ (el = .el1 ∨ el = .el2)) || s.cfg.usesAArch64.get el)) ∧
      ∀ w, stage2Of s.cfg r c = some w → contextRefusal s.cfg c r = none →
        usesAArch64 s.cfg w.ss .el1 = false ∨ usesAArch64 s.cfg w.ss .el0 = false →
        s.cfg.haveEL2 = true → usesAArch64 s.cfg w.ss .el2 = true → usesVMSAv9_128 s (.two w) = true →
        (translate o s c va).result = .refused .aarch32NeedsVMSAv8

/-! ### Sizes -/

/-- Tables D8-5, D8-6 and D8-7: the PA sizes, with the values above 0b0111 reserved, the OA sizes, and the
maximum TnSZ. -/
def Obligations.SizeTables : Prop :=
  (List.map (fun n => paRangeBits (BitVec.ofNat 4 n)) (List.range 16) =
      [some 32, some 36, some 40, some 42, some 44, some 48, some 52, some 56,
        none, none, none, none, none, none, none, none]) ∧
    (List.map (fun n => psBits (BitVec.ofNat 3 n)) (List.range 8) = [32, 36, 40, 42, 44, 48, 52, 56]) ∧
    ∀ cfg : Config,
      [maxTnSZ cfg .g4KB, maxTnSZ cfg .g16KB, maxTnSZ cfg .g64KB] =
        if cfg.featTTST then [48, 48, 47] else [39, 39, 39]

/-- Table D8-9, with the 4KB column's level 3 subject to FEAT_TTST and AArch64 state; and the first lookup of
every stage 2 walk is at a level that the row of the implementation and the column of the granule permit, by
the Execution state of the executing PE. One read for each level is the model's reading of R85 (log entry 8),
and a VMSAv8-64 stage 2 of a 56-bit implementation takes the 52-bit row (D16, log entry 31). -/
def Obligations.Stage2WalkStartsAtPermittedLevel : Prop :=
  ([32, 36, 40, 42, 44, 48, 52, 56].map (fun p => validInitialLevels p .g4KB) =
      [[3, 2, 1], [3, 2, 1], [3, 2, 1], [3, 2, 1], [3, 2, 1, 0], [3, 2, 1, 0], [3, 2, 1, 0, -1],
        [3, 2, 1, 0, -1, -2]]) ∧
    ([32, 36, 40, 42, 44, 48, 52, 56].map (fun p => validInitialLevels p .g16KB) =
      [[3, 2], [3, 2], [3, 2], [3, 2, 1], [3, 2, 1], [3, 2, 1], [3, 2, 1, 0], [3, 2, 1, 0, -1]]) ∧
    ([32, 36, 40, 42, 44, 48, 52, 56].map (fun p => validInitialLevels p .g64KB) =
      [[3, 2], [3, 2], [3, 2], [3, 2], [3, 2, 1], [3, 2, 1], [3, 2, 1], [3, 2, 1, 0]]) ∧
    (∀ (cfg : Config) (p : Nat) (g : Granule) (a : Bool),
      (3 ∈ permittedInitialLevels cfg p g a ↔ g ≠ .g4KB ∨ cfg.featTTST = true ∧ a = true) ∧
        ∀ l : Int, l ≠ 3 → (l ∈ permittedInitialLevels cfg p g a ↔ l ∈ validInitialLevels p g)) ∧
    ∀ (o : OpenParameters) (s : State) (c : Context) (w : World) (ia : Nat) (inSpace : Option PASpace),
      ∃ first rest, (walk o s c (.two w) .single ia inSpace).reads = first :: rest ∧
        first.level ∈ permittedInitialLevels s.cfg
          (if paSize s.cfg = 56 ∧ systemOf s (.two w) = .vmsav8_64 then 52 else paSize s.cfg)
          (granuleOf s (.two w) .single) (usesAArch64 s.cfg s.ss s.el)

/-- The OA size of a stage is what its {I}PS field configures, no larger than the implemented PA size. -/
def Obligations.OASizeIsClamped : Prop :=
  ∀ (s : State) (st : Stage),
    (psBits (s.regs.oaSize (tcrOf st)) ≤ paSize s.cfg →
        oaSize s st = psBits (s.regs.oaSize (tcrOf st))) ∧
      (paSize s.cfg < psBits (s.regs.oaSize (tcrOf st)) → oaSize s st = paSize s.cfg)

/-- What a walk gets to see of the registers (log entry 9): the {I}PS of its stage with the clamp of R280, so
that the size it stands for is the OA size; the D128 control of its stage, as 0 where VMSAv9-128 is not
supported (R70); as the TnSZ that configures its IA size the one in use (R322, R325, R358); and of the table
base registers that of the range or of the IPA space, and no other (R315, R316, R46). -/
def Obligations.WalkSeesEffectiveValues : Prop :=
  ∀ (s : State) (c : Context) (st : Stage) (ia v : Nat) (inSpace : Option PASpace),
    let range := stageRange st ia
    let regs := (walkInput s c st range ia inSpace).regs
    ((.oaSize (tcrOf st), v) ∈ regs ↔ v = min (s.regs.read (.oaSize (tcrOf st))) s.cfg.paRange.toNat) ∧
      (s.cfg.wellFormed = true → (.oaSize (tcrOf st), v) ∈ regs →
        psBits (BitVec.ofNat 3 v) = oaSize s st) ∧
      (∀ r, d128ControlOf st = some r → ((.d128 r, v) ∈ regs ↔
        v = if s.cfg.supportsVMSAv9_128 then s.regs.read (.d128 r) else 0)) ∧
      (∀ t, effectiveTnSZ s st range inSpace = some t →
        (∀ w, st = .two w → ∃ space, inSpace = some space ∧ permittedIPASpace w space = true) →
        ((tnszUsed st range inSpace, v) ∈ regs ↔ v = t)) ∧
      (∀ r, st = .one r → ((.rest (tableBase r range), v) ∈ regs ↔
          v = s.regs.read (.rest (tableBase r range))) ∧
        ∀ range', tableBase r range' ≠ tableBase r range → (.rest (tableBase r range'), v) ∉ regs) ∧
      ∀ w space, st = .two w → inSpace = some space → permittedIPASpace w space = true →
        ((.rest (tableBaseS2 space), v) ∈ regs ↔ v = s.regs.read (.rest (tableBaseS2 space))) ∧
          ∀ space', tableBaseS2 space' ≠ tableBaseS2 space → (.rest (tableBaseS2 space'), v) ∉ regs

/-- The nine maximum VA ranges of the source, first and last address. -/
def Obligations.MaximumVARanges : Prop :=
  rangeOf .single 48 = (0x0000000000000000, 0x0000FFFFFFFFFFFF) ∧
    rangeOf .single 52 = (0x0000000000000000, 0x000FFFFFFFFFFFFF) ∧
    rangeOf .single 56 = (0x0000000000000000, 0x00FFFFFFFFFFFFFF) ∧
    rangeOf .lower 48 = (0x0000000000000000, 0x0000FFFFFFFFFFFF) ∧
    rangeOf .lower 52 = (0x0000000000000000, 0x000FFFFFFFFFFFFF) ∧
    rangeOf .lower 55 = (0x0000000000000000, 0x007FFFFFFFFFFFFF) ∧
    rangeOf .upper 48 = (0xFFFF000000000000, 0xFFFFFFFFFFFFFFFF) ∧
    rangeOf .upper 52 = (0xFFF0000000000000, 0xFFFFFFFFFFFFFFFF) ∧
    rangeOf .upper 55 = (0xFF80000000000000, 0xFFFFFFFFFFFFFFFF)

/-- The first and the last address of a range of `n` bits, and that a 64-bit address is in range exactly when it
lies between them. -/
def Obligations.InRangeIffWithinRangeOf : Prop :=
  ∀ (range : VARange) (n a : Nat), n ≤ 64 → a < 2 ^ 64 →
    (rangeOf range n =
        if range = .upper then (2 ^ 64 - 2 ^ n, 2 ^ 64 - 1) else (0, 2 ^ n - 1)) ∧
      (inRange range n a = true ↔ (rangeOf range n).1 ≤ a ∧ a ≤ (rangeOf range n).2)

/-- In a two-range regime bit 55 of the IA selects the range; another regime has a single range. The two-range
regimes are the EL1&0 and the EL2&0 regimes (R177), and a stage 2 has a single range. -/
def Obligations.Bit55SelectsTheRange : Prop :=
  ∀ (r : Regime) (va : VA),
    (twoVARanges r = true → va[55] = false → selectRange r va.toNat = .lower) ∧
      (twoVARanges r = true → va[55] = true → selectRange r va.toNat = .upper) ∧
      (twoVARanges r = false → selectRange r va.toNat = .single) ∧
      (twoVARanges r = true ↔ ∃ w, r = .el10 w ∨ r = .el20 w) ∧
      (stageRange (.one r) va.toNat = selectRange r va.toNat ∧
        ∀ w, stageRange (.two w) va.toNat = .single)

/-- The maximum VA size of a stage 1 by translation system, granule, DS, FEAT_LVA and FEAT_LVA3 (R301, R302),
limited to 55 bits in a two-range regime (R307, D28); the minimum TnSZ (R323, R324); and the minimum TnSZ is 64
less the maximum VA size, which is at most 56 bits. -/
def Obligations.MinTnSZMatchesMaxVASize : Prop :=
  ∀ (s : State) (r : Regime) (range : VARange),
    let v8 (no yes : Nat) : Nat :=
      if granuleOf s (.one r) range = .g64KB then (if s.cfg.featLVA then yes else no)
      else if s.regs.read (.ds (tcrOf (.one r))) = 1 then yes else no
    let v9 (no lva lva3 : Nat) : Nat :=
      if s.cfg.featLVA3 then lva3 else if s.cfg.featLVA then lva else no
    (systemOf s (.one r) = .vmsav8_64 →
        maxVASize s r range = v8 48 52 ∧ minTnSZS1 s r range = v8 16 12) ∧
      (systemOf s (.one r) = .vmsav9_128 → maxVASize s r range = v9 48 52 56 ∧
        minTnSZS1 s r range = v9 16 12 (if twoVARanges r then 9 else 8)) ∧
      effectiveMaxVASize s r range =
        (if twoVARanges r then min (maxVASize s r range) 55 else maxVASize s r range) ∧
      minTnSZS1 s r range = 64 - effectiveMaxVASize s r range ∧
      effectiveMaxVASize s r range ≤ 56 ∧
      (twoVARanges r = true → effectiveMaxVASize s r range ≤ 55)

/-- The TnSZ a stage 1 uses, and the T0SZ a stage 2 uses, lie between their minimum and their maximum, whatever
the field holds; and a value between the two is used as it is (R326, R359). The value is that of the stage's own
field. -/
def Obligations.EffectiveTnSZWithinBounds : Prop :=
  ∀ (s : State) (t u : Nat),
    (∀ (r : Regime) (range : VARange), effectiveTnSZS1 s r range t = some u →
        minTnSZS1 s r range ≤ u ∧ u ≤ maxTnSZ s.cfg (granuleOf s (.one r) range)) ∧
      (∀ (r : Regime) (range : VARange),
        minTnSZS1 s r range ≤ t → t ≤ maxTnSZ s.cfg (granuleOf s (.one r) range) →
        effectiveTnSZS1 s r range t = some t) ∧
      (∀ w : World, effectiveT0SZS2 s w t = some u →
        minT0SZS2 s w ≤ u ∧ u ≤ maxTnSZ s.cfg (granuleOf s (.two w) .single)) ∧
      (∀ w : World, minT0SZS2 s w ≤ t → t ≤ maxTnSZ s.cfg (granuleOf s (.two w) .single) →
        effectiveT0SZS2 s w t = some t) ∧
      ∀ (r : Regime) (w : World) (range : VARange) (inSpace : Option PASpace),
        effectiveTnSZ s (.one r) range inSpace =
            effectiveTnSZS1 s r range (s.regs.read (tnszUsed (.one r) range inSpace)) ∧
          effectiveTnSZ s (.two w) range inSpace =
            effectiveT0SZS2 s w (s.regs.read (tnszUsed (.two w) range inSpace))

/-- A TnSZ above the maximum, used by an enabled stage 1 or stage 2 (R322): with `ClampToMax` the stage
behaves for every address as if the field had the maximum, with `Fault` every use is a level 0 Translation
fault of the stage; the field reads back as it was written in either case. -/
def Obligations.TnSZAboveMaximum : Prop :=
  ∀ (o : OpenParameters) (s : State) (c : Context) (st : Stage) (ia t : Nat) (inSpace : Option PASpace),
    let f := tnszUsed st (stageRange st ia) inSpace
    let g := granuleOf s st (stageRange st ia)
    s.enabled.get st = true → granuleSupported s.cfg st.number g = true →
    maxTnSZ s.cfg g < t → t < 64 →
    (s.cfg.tnszTooLarge = .clampToMax →
        translateStage o { s with regs := s.regs.write f t } c st ia inSpace =
          translateStage o { s with regs := s.regs.write f (maxTnSZ s.cfg g) } c st ia inSpace) ∧
      (s.cfg.tnszTooLarge = .fault →
        translateStage o { s with regs := s.regs.write f t } c st ia inSpace =
          { result := .fault { stage := st.number, level := 0, kind := .translation }, reads := [] }) ∧
      (s.regs.write f t).read f = t

/-- A TnSZ below the minimum, used by an enabled stage 1 (R325): with FEAT_LVA a level 0 Translation fault
of stage 1; without it, as the implementation chose, that fault, or the stage behaves for every address as
if the field had the value 16; the field reads back as it was written. -/
def Obligations.Stage1TnSZBelowMinimum : Prop :=
  ∀ (o : OpenParameters) (s : State) (c : Context) (r : Regime) (ia t : Nat),
    let f := tnszField r (selectRange r ia)
    s.enabled.get (.one r) = true →
    granuleSupported s.cfg .one (granuleOf s (.one r) (selectRange r ia)) = true →
    t < minTnSZS1 s r (selectRange r ia) →
    (s.cfg.featLVA = false ∧ s.cfg.s1TnszTooSmall = .treatAs16 →
        translateStage o { s with regs := s.regs.write f t } c (.one r) ia none =
          translateStage o { s with regs := s.regs.write f 16 } c (.one r) ia none) ∧
      (s.cfg.featLVA = true ∨ s.cfg.s1TnszTooSmall = .fault →
        translateStage o { s with regs := s.regs.write f t } c (.one r) ia none =
          { result := .fault { stage := .one, level := 0, kind := .translation }, reads := [] }) ∧
      (s.regs.write f t).read f = t

/-- A T0SZ below the effective minimum, used by an enabled stage 2 (R358): with FEAT_LPA a level 0
Translation fault of stage 2; without it, as the implementation chose, that fault, or the stage behaves for
every address as if the field had the effective minimum value; the field reads back as it was written. -/
def Obligations.Stage2T0SZBelowMinimum : Prop :=
  ∀ (o : OpenParameters) (s : State) (c : Context) (w : World) (ia t : Nat) (space : PASpace),
    let f := t0szFieldS2 space
    s.enabled.get (.two w) = true →
    granuleSupported s.cfg .two (granuleOf s (.two w) .single) = true →
    t < minT0SZS2 s w →
    (s.cfg.featLPA = false ∧ s.cfg.s2T0szTooSmall = .treatAsMin →
        translateStage o { s with regs := s.regs.write f t } c (.two w) ia (some space) =
          translateStage o { s with regs := s.regs.write f (minT0SZS2 s w) } c (.two w) ia (some space)) ∧
      (s.cfg.featLPA = true ∨ s.cfg.s2T0szTooSmall = .fault →
        translateStage o { s with regs := s.regs.write f t } c (.two w) ia (some space) =
          { result := .fault { stage := .two, level := 0, kind := .translation }, reads := [] }) ∧
      (s.regs.write f t).read f = t

/-- With EL1 in AArch64 state the largest IPA size is the implemented PA size, but for a VMSAv8-64 stage 2
of a 56-bit implementation, which is as on a 52-bit one (the spec's decision D16, log entry 31); with EL1 in
AArch32 state it is the same, but never less than 40 bits. -/
def Obligations.LargestIPASizeIsThePASize : Prop :=
  ∀ (s : State) (w : World), s.cfg.wellFormed = true →
    let size := if paSize s.cfg = 56 ∧ systemOf s (.two w) = .vmsav8_64 then 52 else paSize s.cfg
    (usesAArch64 s.cfg w.ss .el1 = true → iaSize (minT0SZS2 s w) = size) ∧
      (usesAArch64 s.cfg w.ss .el1 = false → iaSize (minT0SZS2 s w) = max size 40)

/-! ### One stage -/

/-- A disabled stage gives the IA as the OA and reads no table (R78); stage 1 does so for every address that fits
the implemented PA size, stage 2 for every address. That it does so at and above 2^52 too, for a VMSAv8-64 stage of
a 56-bit implementation, follows R78 and R83 and not R274 read with R73, which is the model's (log entry 31). -/
def Obligations.DisabledStageIsFlat : Prop :=
  ∀ (o : OpenParameters) (s : State) (c : Context) (st : Stage) (ia : Nat) (inSpace : Option PASpace),
    s.enabled.get st = false → (st.number = .one → ia < 2 ^ paSize s.cfg) →
    ∃ space info, translateStage o s c st ia inSpace =
      { result := .ok ia space none info, reads := [] }

/-- A disabled stage 1 faults on an address larger than the implemented PA size: a stage 1 level 0 Address
size fault, in every regime (R329). That the IA size of a disabled stage is the value of the address, so that
the fault comes at and above 2^PASize(), is the spec's decision D7 (log entry 31). -/
def Obligations.DisabledStage1AddressSizeFault : Prop :=
  ∀ (o : OpenParameters) (s : State) (c : Context) (r : Regime) (va : Nat),
    s.enabled.get (.one r) = false → 2 ^ paSize s.cfg ≤ va →
    (translateStage o s c (.one r) va none).result =
      .fault { stage := .one, level := 0, kind := .addressSize }

/-- An enabled stage, at a supported granule, whose TnSZ is usable, faults on an address outside the range
that TnSZ configures, with no table read: a level 0 Translation fault of that stage. For stage 2 this is the
IPA size check, made whether or not stage 1 is enabled. That all 64 bits take part, that an address below an
upper range counts as larger, and that the check comes before any table read, are the spec's decisions D6, D7
and D8 (log entry 31). -/
def Obligations.AddressOutsideRangeFaults : Prop :=
  ∀ (o : OpenParameters) (s : State) (c : Context) (st : Stage) (ia t : Nat) (inSpace : Option PASpace),
    s.enabled.get st = true →
    granuleSupported s.cfg st.number (granuleOf s st (stageRange st ia)) = true →
    effectiveTnSZ s st (stageRange st ia) inSpace = some t →
    inRange (stageRange st ia) (64 - t) ia = false →
    translateStage o s c st ia inSpace =
      { result := .fault { stage := st.number, level := 0, kind := .translation }, reads := [] }

/-- An enabled stage whose checks pass makes the table reads of its walk, whatever comes of it. An OA that is larger
than the implemented PA size is an Address size fault at the lookup level that gave it; one that fits is the stage's
output; a fault of the walk is the stage's. The comparison by value, and with 2^PASize() whatever {I}PS configures,
are the spec's decisions D7 and D24 (log entry 31). -/
def Obligations.OversizedOutputFaults : Prop :=
  ∀ (o : OpenParameters) (s : State) (c : Context) (st : Stage) (ia t : Nat) (inSpace : Option PASpace),
    let w := walk o s c st (stageRange st ia) ia inSpace
    s.enabled.get st = true →
    granuleSupported s.cfg st.number (granuleOf s st (stageRange st ia)) = true →
    effectiveTnSZ s st (stageRange st ia) inSpace = some t →
    inRange (stageRange st ia) (64 - t) ia = true →
    (∀ oa space level info, w.result = .ok oa space level info →
        (translateStage o s c st ia inSpace).result =
          if 2 ^ paSize s.cfg ≤ oa then
            .fault { stage := st.number, level := level, kind := .addressSize }
          else .ok oa space (some level) info) ∧
      (∀ f, w.result = .fault f → (translateStage o s c st ia inSpace).result = .fault f) ∧
      (translateStage o s c st ia inSpace).reads = w.reads

/-- What the source constrains of a walk (R84): the level is from -2 to 3; the OA has at most `MaxOASize`
bits and the IA's page offset; the space is one the stage may output to; a fault is of the stage itself;
there is a table read, and the last is at the level of the OA or of the fault; every one is for the stage, in memory
that exists, in a PA space that the Security state can reach (R392), at a level from -2 to 3. Where the reads stand
is the model's (log entry 8). The page offset has 12, 14 or 16 bits by the granule (R145); the IPA spaces are the
Non-secure one, the Secure and the Non-secure one, and the Realm one, by the regime (R172, R186, R188). -/
def Obligations.WalkKeepsItsConstraints : Prop :=
  ∀ (o : OpenParameters) (s : State) (c : Context) (st : Stage) (range : VARange) (ia : Nat)
    (inSpace : Option PASpace),
    (∀ oa space level info, (walk o s c st range ia inSpace).result = .ok oa space level info →
      -2 ≤ level ∧ level ≤ 3 ∧ oa < 2 ^ maxOASize s st range ∧
        oa % 2 ^ pageBits (granuleOf s st range) = ia % 2 ^ pageBits (granuleOf s st range) ∧
        ((∀ r, st = .one r → ∀ w, stage2Of s.cfg r c = some w → permittedIPASpace w space = true) ∧
          (∀ r, st = .one r → stage2Of s.cfg r c = none → permittedPASpace c.ss space = true) ∧
          ∀ w, st = .two w → permittedPASpace c.ss space = true)) ∧
      (∀ f, (walk o s c st range ia inSpace).result = .fault f →
        f.stage = st.number ∧ -2 ≤ f.level ∧ f.level ≤ 3) ∧
      (∀ r ∈ (walk o s c st range ia inSpace).reads,
        r.stage = st ∧ -2 ≤ r.level ∧ r.level ≤ 3 ∧ r.pa < 2 ^ paSize s.cfg ∧
          permittedPASpace c.ss r.space = true) ∧
      (∃ before last, (walk o s c st range ia inSpace).reads = before ++ [last] ∧
        (∀ oa space level info, (walk o s c st range ia inSpace).result = .ok oa space level info →
          last.level = level) ∧
        ∀ f, (walk o s c st range ia inSpace).result = .fault f → last.level = f.level) ∧
      [pageBits .g4KB, pageBits .g16KB, pageBits .g64KB] = [12, 14, 16] ∧
      ∀ p, (permittedIPASpace .nonSecure p = true ↔ p = .nonSecure) ∧
        (permittedIPASpace .secure p = true ↔ p = .secure ∨ p = .nonSecure) ∧
        (permittedIPASpace .realm p = true ↔ p = .realm)

/-- Two IAs in one page that an enabled stage maps have OAs in one page, in one space. That the space, which R144
does not name, is one for the page is the model's reading (log entry 8). -/
def Obligations.OnePageMapsToOnePage : Prop :=
  ∀ (o : OpenParameters) (s : State) (c : Context) (st : Stage) (range : VARange) (ia ia' oa oa' : Nat)
    (inSpace : Option PASpace) (space space' : PASpace) (level level' : Int) (info info' : Info),
    ia / 2 ^ pageBits (granuleOf s st range) = ia' / 2 ^ pageBits (granuleOf s st range) →
    (walk o s c st range ia inSpace).result = .ok oa space level info →
    (walk o s c st range ia' inSpace).result = .ok oa' space' level' info' →
    oa / 2 ^ pageBits (granuleOf s st range) = oa' / 2 ^ pageBits (granuleOf s st range) ∧
      space = space'

/-- The maximum OA size of a stage: with VMSAv8-64 and the 4KB or 16KB granule 48 or 52 bits by DS, with the
64KB granule 48 or 52 bits by FEAT_LPA; with VMSAv9-128 56 bits. So a walk of a VMSAv8-64 stage gives an OA
with bits [55:52] zero. -/
def Obligations.MaxOASizeLimitsTheWalk : Prop :=
  ∀ (o : OpenParameters) (s : State) (c : Context) (st : Stage) (range : VARange),
    (systemOf s st = .vmsav8_64 → maxOASize s st range =
        if granuleOf s st range = .g64KB then (if s.cfg.featLPA then 52 else 48)
        else if s.regs.read (.ds (tcrOf st)) = 1 then 52 else 48) ∧
      (systemOf s st = .vmsav9_128 → maxOASize s st range = 56) ∧
      ∀ (ia oa : Nat) (inSpace : Option PASpace) (space : PASpace) (level : Int) (info : Info),
        systemOf s st = .vmsav8_64 →
        (walk o s c st range ia inSpace).result = .ok oa space level info → oa < 2 ^ 52

/-! ### The whole translation -/

/-- With one stage the OA of stage 1 is the PA; with two, the OA of stage 1 is the IPA, which stage 2 takes in
the space stage 1 gave, and the OA of stage 2 is the PA; a fault of stage 1 is the translation's, and the reads
are then those of stage 1 alone: stage 2 is not performed. With two stages the reads are those of stage 1
followed by those of stage 2. A stage that is refused (an unsupported granule, R149) refuses the translation.
`Translate` (R82) is that composition, in the regime of the context, wherever nothing refuses it, at the address
of the access, which is the VA, and from EL0 in AArch32 its low 32 bits (R228); where something does, it is that
refusal, and no table is read. -/
def Obligations.StagesCompose : Prop :=
  ∀ (o : OpenParameters) (s : State) (c : Context) (r : Regime) (va : Nat),
    (∀ f, (translateStage o s c (.one r) va none).result = .fault f →
      translateIn o s c r va =
        { result := .fault f, reads := (translateStage o s c (.one r) va none).reads }) ∧
    (∀ x, (translateStage o s c (.one r) va none).result = .refused x →
      translateIn o s c r va =
        { result := .refused x, reads := (translateStage o s c (.one r) va none).reads }) ∧
    (∀ oa space level info, (translateStage o s c (.one r) va none).result = .ok oa space level info →
      let reads1 := (translateStage o s c (.one r) va none).reads
      (stage2Of s.cfg r c = none →
        translateIn o s c r va = { result := .ok oa space info, reads := reads1 }) ∧
      ∀ w, stage2Of s.cfg r c = some w →
        let run2 := translateStage o s c (.two w) oa (some space)
        (∀ f, run2.result = .fault f →
          translateIn o s c r va = { result := .fault f, reads := reads1 ++ run2.reads }) ∧
        (∀ x, run2.result = .refused x →
          translateIn o s c r va = { result := .refused x, reads := reads1 ++ run2.reads }) ∧
        ∀ pa space2 level2 info2, run2.result = .ok pa space2 level2 info2 →
          translateIn o s c r va =
            { result := .ok pa space2 info2, reads := reads1 ++ run2.reads }) ∧
    ∀ va' : VA, regimeOf c = some r →
      (translationRefusal s c r = none →
          translate o s c va' = translateIn o s c r (accessAddress s.cfg c va')) ∧
        (∀ x, translationRefusal s c r = some x →
          translate o s c va' = { result := .refused x, reads := [] }) ∧
        accessAddress s.cfg c va' =
          if c.el = .el0 ∧ s.cfg.usesAArch64.el0 = false then va'.toNat % 2 ^ 32 else va'.toNat

/-- Every address that a translation gives is below `2^PASize()`. -/
def Obligations.TranslationFitsThePASize : Prop :=
  ∀ (o : OpenParameters) (s : State) (c : Context) (va : VA) (pa : Nat) (space : PASpace) (info : Info),
    (translate o s c va).result = .ok pa space info → pa < 2 ^ paSize s.cfg

/-- Table D8-1, and that every address a translation gives is in a PA space that it marks YES for the Security
state (R163): the Secure space is reached from Secure and Root state only, the Realm space from Realm and Root
state only, the Root space from Root state only. -/
def Obligations.TranslationStaysInPermittedSpaces : Prop :=
  ((∀ ss, permittedPASpace ss .nonSecure = true) ∧
    (∀ ss, permittedPASpace ss .secure = true ↔ ss = .secure ∨ ss = .root) ∧
    (∀ ss, permittedPASpace ss .realm = true ↔ ss = .realm ∨ ss = .root) ∧
    ∀ ss, permittedPASpace ss .root = true ↔ ss = .root) ∧
  ∀ (o : OpenParameters) (s : State) (c : Context) (va : VA) (pa : Nat) (space : PASpace) (info : Info),
    (translate o s c va).result = .ok pa space info →
    permittedPASpace c.ss space = true ∧ (space = .secure → c.ss = .secure ∨ c.ss = .root) ∧
      (space = .realm → c.ss = .realm ∨ c.ss = .root) ∧ (space = .root → c.ss = .root)

/-- Every fault of a translation is the result of the stage it names: a stage 1 fault is what stage 1 came to,
and a disabled stage 1 raises only its level 0 Address size fault; a stage 2 fault is what an enabled stage 2
of the regime came to for the OA that stage 1 gave, in the space that stage 1 gave. -/
def Obligations.FaultsBelongToTheirStage : Prop :=
  ∀ (o : OpenParameters) (s : State) (c : Context) (r : Regime) (va : Nat) (f : MMUFault),
    (translateIn o s c r va).result = .fault f →
    (f.stage = .one →
        (translateStage o s c (.one r) va none).result = .fault f ∧
          (s.enabled.get (.one r) = false →
            f = { stage := .one, level := 0, kind := .addressSize } ∧ 2 ^ paSize s.cfg ≤ va)) ∧
      (f.stage = .two → ∃ w oa space level info,
        stage2Of s.cfg r c = some w ∧ s.enabled.get (.two w) = true ∧
          (translateStage o s c (.one r) va none).result = .ok oa space level info ∧
          (translateStage o s c (.two w) oa (some space)).result = .fault f)

/-- The operation Access (R129) is made in the context of the PE: its Security state and Exception level, the
fields of HCR_EL2 and SCR_EL3, and without EL3 the pair that stands for the Security state (D15, log entry 14).
It shows what the translation comes to, a PA or a fault, performs the table reads of the translation, and
changes nothing else; a refused translation refuses it. So, with every stage of the regime disabled, an access
that nothing refuses, at an address that fits the implemented PA size, completes with the VA as the PA; at and
above 2^52, for VMSAv8-64 stages of a 56-bit implementation, that follows R78 and R83 and not R274 read with R73
(log entry 31). The list of results and the record of the reads are the model's (log entry 23), and so is that
the machine goes on after a fault (log entry 26) and that the PC stays (log entry 45). -/
def Obligations.AccessShowsItsTranslation : Prop :=
  ∀ (o : OpenParameters) (s : State) (va : VA),
    let run := translate o s s.ctx va
    let shown (x : AccessResult) : State :=
      { s with
        performed := s.performed ++ run.reads
        observations := s.observations ++ [.access s.ctx va x] }
    let pair : Bool × Bool :=
      match s.ss with
      | .nonSecure => (false, true)
      | .secure => (false, false)
      | .realm => (true, true)
      | .root => (true, false)
    s.ctx = {
        ss := s.ss, el := s.el, e2h := s.regs.hcrEL2.e2h, tge := s.regs.hcrEL2.tge
        eel2 := s.regs.scrEL3.eel2
        nse := if s.cfg.haveEL3 then s.regs.scrEL3.nse else pair.1
        ns := if s.cfg.haveEL3 then s.regs.scrEL3.ns else pair.2 } ∧
      (∀ pa space info, run.result = .ok pa space info →
        perform o (.access va) s = .next (shown (.ok pa space info))) ∧
      (∀ f, run.result = .fault f → perform o (.access va) s = .next (shown (.fault f))) ∧
      (∀ x, run.result = .refused x → perform o (.access va) s = .refused x) ∧
      ∀ r : Regime, regimeOf s.ctx = some r → translationRefusal s s.ctx r = none →
        s.enabled.get (.one r) = false →
        (∀ w, stage2Of s.cfg r s.ctx = some w → s.enabled.get (.two w) = false) →
        accessAddress s.cfg s.ctx va < 2 ^ paSize s.cfg →
        ∃ space info, perform o (.access va) s =
          .next { s with
            observations := s.observations ++
              [.access s.ctx va (.ok (accessAddress s.cfg s.ctx va) space info)] }

/-- The ranges of a stage 1 are independent (R304): the TnSZ, the table base and the granule of one range
have no effect on the translation of an address of the other. That each range has a granule of its own is the
spec's decision D4 (log entry 15), and which fields a walk may depend on is log entry 9. -/
def Obligations.VARangesAreIndependent : Prop :=
  ∀ (o : OpenParameters) (s : State) (c : Context) (r : Regime) (range : VARange) (va t b : Nat)
    (g : Granule),
    twoVARanges r = true → (range = .lower ∨ range = .upper) → selectRange r va ≠ range →
    translateIn o
        { s with
          regs := (s.regs.write (tnszField r range) t).write (.rest (tableBase r range)) b
          granules := s.granules.set (.one r) ((s.granules.get (.one r)).set range g) } c r va =
      translateIn o s c r va

/-- A field of a register that does not control the stage in use, set while execution is at EL2 or EL3 from a
level that can access it, changes no translation made there: at EL3 the fields of every register but those of
the EL3 row of Table D8-3, at EL2 those of the registers that control only EL1&0 stages and, in an EL2 regime,
of HCR_EL2 too, but for E2H, which selects the regime (R260, R27, R175). When a field takes effect is the
model's (log entry 24), and so is what the open parameters see of the context (log entries 9 and 10). -/
def Obligations.OutOfContextFieldsDoNotMatter : Prop :=
  ∀ (o : OpenParameters) (s : State) (f : SysField) (v : Nat) (va : VA),
    s.el = .el2 ∨ s.el = .el3 → f.reg.lowestEL.num ≤ s.el.num →
    (∀ r, regimeOf s.ctx = some r → f.reg ∉ controllingRegisters (.one r)) →
    (f = .e2h → s.el = .el3) →
    translate o { s with regs := s.regs.write f v } ({ s with regs := s.regs.write f v } : State).ctx va =
      translate o s s.ctx va
end

