-- ==== Sys2Proof/Laws/Memory.lean ====
section
/-! SUPPORT. What reading and writing memory do: a write is read back, leaves every other place alone, and keeps
the canonical form and the bound on addresses. -/

namespace Sys2Proof

theorem readCells_writeCells_same (l : List Host.Cell) (x : Nat) (v : Byte) :
    readCells (writeCells l x v) x = some v := by
  induction l with
  | nil => simp [writeCells, readCells]
  | cons c t ih =>
    obtain ⟨a, b⟩ := c
    unfold writeCells
    split
    · simp [readCells]
    · split
      · simp [readCells]
      · have h : a ≠ x := by omega
        simp [readCells, h, ih]

theorem readCells_writeCells_ne (l : List Host.Cell) {x y : Nat} (v : Byte) (h : y ≠ x) :
    readCells (writeCells l x v) y = readCells l y := by
  induction l with
  | nil => simp [writeCells, readCells, Ne.symm h]
  | cons c t ih =>
    obtain ⟨a, b⟩ := c
    unfold writeCells
    split
    · simp [readCells, Ne.symm h]
    · split
      · next e => subst e; simp [readCells, Ne.symm h]
      · simp [readCells, ih]

theorem cellsRising_cons {a : Nat} {b : Byte} {t : List Host.Cell} :
    cellsRising ((a, b) :: t) = true ↔
      (∀ c ∈ t.head?, a < c.1) ∧ cellsRising t = true := by
  cases t with
  | nil => simp [cellsRising]
  | cons c t => obtain ⟨x, y⟩ := c; simp [cellsRising]

theorem head_writeCells {l : List Host.Cell} {x : Nat} {v : Byte} {c : Host.Cell}
    (h : (writeCells l x v).head? = some c) : c.1 = x ∨ ∃ d ∈ l.head?, c.1 = d.1 := by
  cases l with
  | nil => simp only [writeCells, List.head?_cons, Option.some.injEq] at h; left; rw [← h]
  | cons d t =>
    obtain ⟨a, b⟩ := d
    unfold writeCells at h
    split at h
    · simp only [List.head?_cons, Option.some.injEq] at h; left; rw [← h]
    · split at h
      · simp only [List.head?_cons, Option.some.injEq] at h; left; rw [← h]
      · simp only [List.head?_cons, Option.some.injEq] at h; right; exact ⟨_, rfl, by rw [← h]⟩

theorem cellsRising_writeCells (l : List Host.Cell) (x : Nat) (v : Byte)
    (h : cellsRising l = true) : cellsRising (writeCells l x v) = true := by
  induction l with
  | nil => rfl
  | cons c t ih =>
    obtain ⟨a, b⟩ := c
    obtain ⟨hh, ht⟩ := cellsRising_cons.mp h
    unfold writeCells
    split
    · next hx => exact cellsRising_cons.mpr ⟨by simpa using hx, h⟩
    · split
      · next hx => exact cellsRising_cons.mpr ⟨by rw [hx]; exact hh, ht⟩
      · refine cellsRising_cons.mpr ⟨fun c hc => ?_, ih ht⟩
        rcases head_writeCells hc with e | ⟨d, hd, e⟩
        · omega
        · rw [e]; exact hh d hd

theorem cellsBelow_writeCells (n : Nat) (l : List Host.Cell) (x : Nat) (v : Byte)
    (h : cellsBelow n l = true) (hx : x < n) : cellsBelow n (writeCells l x v) = true := by
  induction l with
  | nil => simp [writeCells, cellsBelow, hx]
  | cons c t ih =>
    obtain ⟨a, b⟩ := c
    simp only [cellsBelow, Bool.and_eq_true, decide_eq_true_eq] at h
    unfold writeCells
    split
    · simp [cellsBelow, h, hx]
    · split
      · simp [cellsBelow, h, hx]
      · simp [cellsBelow, h, ih h.2]

@[simp] theorem Memory.cells_withCells_same (m : Memory) (sp : PASpace) (l : List Host.Cell) :
    (m.withCells sp l).cells sp = l := by cases sp <;> rfl

theorem Memory.cells_withCells_ne (m : Memory) {sp sp' : PASpace} (l : List Host.Cell)
    (h : sp' ≠ sp) : (m.withCells sp l).cells sp' = m.cells sp' := by
  cases sp <;> cases sp' <;> first | rfl | exact absurd rfl h

/-- A byte reads back after it is written. -/
@[simp] theorem Memory.read_write_same (m : Memory) (sp : PASpace) (pa : Nat) (b : Byte) :
    (m.write sp pa b).read sp pa = some b := by
  simp [Memory.read, Memory.write, readCells_writeCells_same]

/-- A write leaves every other byte alone. -/
theorem Memory.read_write_ne (m : Memory) {sp sp' : PASpace} {pa pa' : Nat} (b : Byte)
    (h : ¬(sp' = sp ∧ pa' = pa)) : (m.write sp pa b).read sp' pa' = m.read sp' pa' := by
  unfold Memory.read Memory.write
  by_cases hs : sp' = sp
  · subst hs
    rw [Memory.cells_withCells_same]
    exact readCells_writeCells_ne _ _ (fun e => h ⟨rfl, e⟩)
  · rw [Memory.cells_withCells_ne _ _ hs]

/-- A write keeps the canonical form. -/
theorem Memory.wf_write (m : Memory) (sp : PASpace) (pa : Nat) (b : Byte) (h : m.wf = true) :
    (m.write sp pa b).wf = true := by
  simp only [Memory.wf, Bool.and_eq_true] at h ⊢
  cases sp <;>
    simp [Memory.write, Memory.withCells, Memory.cells, cellsRising_writeCells, h]

/-- A write below the bound keeps every address below it. -/
theorem Memory.below_write (m : Memory) (n : Nat) (sp : PASpace) (pa : Nat) (b : Byte)
    (h : m.below n = true) (hp : pa < n) : (m.write sp pa b).below n = true := by
  simp only [Memory.below, Bool.and_eq_true] at h ⊢
  cases sp <;>
    simp [Memory.write, Memory.withCells, Memory.cells, cellsBelow_writeCells, h, hp]

end Sys2Proof
end

