-- ==== Sys2Proof/Laws/PerInstr.lean ====
section
/-! SUPPORT. What holds of every instruction as syntax, one lemma for each constructor. -/

namespace Sys2Proof.Laws.EncodesInFourBytes

/-- The instruction is well formed, its encoding is four bytes long (R122), and the two bytes stored last are
those that both rows of the opcode table have (R122, R123). -/
def Statement (i : Instr) : Prop :=
  i.wellFormed = true ∧ (encode i).length = 4 ∧ (encode i).drop 2 = [0x03, 0xD5]

theorem dsb (crm : BitVec 4) : Statement (.dsb crm) := by
  refine ⟨rfl, rfl, ?_⟩
  revert crm
  decide

theorem psb : Statement .psb := ⟨rfl, rfl, rfl⟩

end Sys2Proof.Laws.EncodesInFourBytes
end

