-- ==== Sys2Proof/Laws/Sizes.lean ====
section
/-! SUPPORT. The arithmetic facts about sizes that later proofs cite. -/

namespace Sys2Proof

theorem pageBits_le (g : Granule) : pageBits g ≤ 16 := by cases g <;> decide

theorem maxTnSZ_ge (cfg : Config) (g : Granule) : 39 ≤ maxTnSZ cfg g := by
  unfold maxTnSZ; split <;> [split; skip] <;> omega

theorem maxTnSZ_le (cfg : Config) (g : Granule) : maxTnSZ cfg g ≤ 48 := by
  unfold maxTnSZ; split <;> [split; skip] <;> omega

/-- The sizes Table D8-5 gives. -/
theorem paRangeBits_cases {v : BitVec 4} {n : Nat} (h : paRangeBits v = some n) :
    n = 32 ∨ n = 36 ∨ n = 40 ∨ n = 42 ∨ n = 44 ∨ n = 48 ∨ n = 52 ∨ n = 56 := by
  unfold paRangeBits at h
  split at h <;> simp_all

/-- A configuration that is not refused has a PA size. -/
theorem paSize_of_configRefusal {cfg : Config} (h : configRefusal cfg = none) :
    paRangeBits cfg.paRange = some (paSize cfg) := by
  unfold configRefusal at h
  unfold paSize
  split at h
  · cases h
  · next n hn => simp [hn]

theorem validInitialLevels_two (p : Nat) (g : Granule) : (2 : Int) ∈ validInitialLevels p g := by
  cases g <;> simp only [validInitialLevels] <;> (repeat' split) <;> simp

theorem validInitialLevels_bounds (p : Nat) (g : Granule) {l : Int}
    (h : l ∈ validInitialLevels p g) : -2 ≤ l ∧ l ≤ 3 := by
  cases g <;> simp only [validInitialLevels] at h <;> (repeat' split at h) <;>
    simp only [List.mem_cons, List.not_mem_nil, or_false] at h <;> omega

theorem permittedInitialLevels_sub {cfg : Config} {p : Nat} {g : Granule} {a : Bool} {l : Int}
    (h : l ∈ permittedInitialLevels cfg p g a) : l ∈ validInitialLevels p g := by
  unfold permittedInitialLevels at h
  split at h
  · exact (List.mem_filter.mp h).1
  · exact h

theorem permittedInitialLevels_two (cfg : Config) (p : Nat) (g : Granule) (a : Bool) :
    (2 : Int) ∈ permittedInitialLevels cfg p g a := by
  unfold permittedInitialLevels
  split
  · exact List.mem_filter.mpr ⟨validInitialLevels_two p g, by decide⟩
  · exact validInitialLevels_two p g

namespace Machine

theorem maxOASize_bounds (s : State) (st : Stage) (range : VARange) :
    48 ≤ maxOASize s st range ∧ maxOASize s st range ≤ 56 := by
  unfold maxOASize
  (repeat' split) <;> omega

theorem minTnSZS1_bounds (s : State) (r : Regime) (range : VARange) :
    8 ≤ minTnSZS1 s r range ∧ minTnSZS1 s r range ≤ 16 := by
  unfold minTnSZS1
  (repeat' split) <;> omega

theorem minT0SZS2_le (s : State) (w : World) : minT0SZS2 s w ≤ 32 := by
  simp only [minT0SZS2]
  (repeat' split) <;> omega

end Machine

end Sys2Proof
end

