-- ==== Sys2Proof/Laws/State.lean ====
section
/-! SUPPORT. The small lemmas of the state's updates, one per field per update, and of the tables of operands:
what a write reads back as, and that it leaves every other place alone. -/

namespace Sys2Proof

/-! ### Tables -/

@[simp] theorem PerEL.get_set_same {α : Type} (t : PerEL α) (el : EL) (v : α) :
    (t.set el v).get el = v := by cases el <;> rfl

theorem PerEL.get_set_ne {α : Type} (t : PerEL α) {el el' : EL} (v : α) (h : el' ≠ el) :
    (t.set el v).get el' = t.get el' := by
  cases el <;> cases el' <;> first | rfl | exact absurd rfl h

@[simp] theorem PerWorld.get_set_same {α : Type} (t : PerWorld α) (w : World) (v : α) :
    (t.set w v).get w = v := by cases w <;> rfl

theorem PerWorld.get_set_ne {α : Type} (t : PerWorld α) {w w' : World} (v : α) (h : w' ≠ w) :
    (t.set w v).get w' = t.get w' := by
  cases w <;> cases w' <;> first | rfl | exact absurd rfl h

@[simp] theorem PerStage.get_set_same {α : Type} (t : PerStage α) (st : Stage) (v : α) :
    (t.set st v).get st = v := by
  rcases st with (w | w | w | _) | w <;> simp [PerStage.set, PerStage.get]

theorem PerStage.get_set_ne {α : Type} (t : PerStage α) {st st' : Stage} (v : α) (h : st' ≠ st) :
    (t.set st v).get st' = t.get st' := by
  rcases st with (w | w | w | _) | w <;> rcases st' with (w' | w' | w' | _) | w' <;>
    first
    | rfl
    | exact PerWorld.get_set_ne _ v (fun e => h (by rw [e]))
    | exact absurd rfl h

@[simp] theorem RangeGranules.get_set_same (g : RangeGranules) (range : VARange) (v : Granule) :
    (g.set range v).get range = v := by cases range <;> rfl

/-! ### System register fields -/

theorem bitOf_toNat {v : Nat} (h : v < 2) : (bitOf v).toNat = v := by
  have : v = 0 ∨ v = 1 := by omega
  rcases this with rfl | rfl <;> rfl

/-- A field reads back the value written to it. -/
theorem SysRegs.read_write_same (r : SysRegs) (f : SysField) (v : Nat) (h : f.fits v = true) :
    (r.write f v).read f = v := by
  rcases f with (_ | _ | _ | _ | _) | (_ | _) | (_ | _ | _ | _) | (_ | _ | _ | _) | (_ | _ | _ | _) |
    _ | _ | _ | _ | _ | g
  case rest => cases g <;> rfl
  all_goals
    simp only [SysField.fits, SysField.width, decide_eq_true_eq] at h
    first
    | exact Nat.mod_eq_of_lt h
    | exact bitOf_toNat (by simpa using h)

/-- Writing the rest of a register leaves the rest of every other register alone. -/
theorem SysRegs.readRest_writeRest_ne (r : SysRegs) {g g' : SysReg} (v : Nat) (h : g' ≠ g) :
    (r.writeRest g v).readRest g' = r.readRest g' := by
  cases g <;> cases g' <;> first | rfl | exact absurd rfl h

/-- Writing the rest of a register leaves every named field alone. -/
theorem SysRegs.read_writeRest (r : SysRegs) (g : SysReg) (v : Nat) {f : SysField}
    (h : ∀ g', f ≠ .rest g') : (r.writeRest g v).read f = r.read f := by
  rcases f with (_ | _ | _ | _ | _) | (_ | _) | (_ | _ | _ | _) | (_ | _ | _ | _) | (_ | _ | _ | _) |
    _ | _ | _ | _ | _ | g'
  case rest => exact absurd rfl (h g')
  all_goals cases g <;> rfl

/-- Writing one field leaves every other field alone. -/
theorem SysRegs.read_write_ne (r : SysRegs) {f f' : SysField} (v : Nat) (h : f' ≠ f) :
    (r.write f v).read f' = r.read f' := by
  rcases f with (_ | _ | _ | _ | _) | (_ | _) | (_ | _ | _ | _) | (_ | _ | _ | _) | (_ | _ | _ | _) |
    _ | _ | _ | _ | _ | g
  case rest =>
    rcases f' with _ | _ | _ | _ | _ | _ | _ | _ | _ | _ | g'
    case rest =>
      exact SysRegs.readRest_writeRest_ne r v (fun e => h (by rw [e]))
    all_goals exact SysRegs.read_writeRest r g v (by intro g' e; cases e)
  all_goals
    rcases f' with (_ | _ | _ | _ | _) | (_ | _) | (_ | _ | _ | _) | (_ | _ | _ | _) | (_ | _ | _ | _) |
      _ | _ | _ | _ | _ | g'
    case rest => cases g' <;> rfl
    all_goals first | rfl | exact absurd rfl h

namespace Machine

/-! ### Shared state updates, field by field -/

section AdvancePc
variable (s : State)
@[simp] theorem State.advancePc_pc : s.advancePc.pc = s.pc + 4 := rfl
@[simp] theorem State.advancePc_cfg : s.advancePc.cfg = s.cfg := rfl
@[simp] theorem State.advancePc_ss : s.advancePc.ss = s.ss := rfl
@[simp] theorem State.advancePc_el : s.advancePc.el = s.el := rfl
@[simp] theorem State.advancePc_sp : s.advancePc.sp = s.sp := rfl
@[simp] theorem State.advancePc_lr : s.advancePc.lr = s.lr := rfl
@[simp] theorem State.advancePc_elr : s.advancePc.elr = s.elr := rfl
@[simp] theorem State.advancePc_regs : s.advancePc.regs = s.regs := rfl
@[simp] theorem State.advancePc_enabled : s.advancePc.enabled = s.enabled := rfl
@[simp] theorem State.advancePc_granules : s.advancePc.granules = s.granules := rfl
@[simp] theorem State.advancePc_mem : s.advancePc.mem = s.mem := rfl
@[simp] theorem State.advancePc_inFlight : s.advancePc.inFlight = s.inFlight := rfl
@[simp] theorem State.advancePc_spuWalks : s.advancePc.spuWalks = s.spuWalks := rfl
@[simp] theorem State.advancePc_spuInUse : s.advancePc.spuInUse = s.spuInUse := rfl
@[simp] theorem State.advancePc_performed : s.advancePc.performed = s.performed := rfl
@[simp] theorem State.advancePc_observations : s.advancePc.observations = s.observations := rfl
@[simp] theorem State.advancePc_unsettled : s.advancePc.unsettled = s.unsettled := rfl
@[simp] theorem State.advancePc_fetches : s.advancePc.fetches = s.fetches := rfl
@[simp] theorem State.advancePc_pending : s.advancePc.pending = s.pending := rfl
end AdvancePc

/-- Which walk accesses of the profiling unit a DSB covers. -/
theorem State.dsbCovers_iff (s : State) (a : SpuAccess) :
    s.dsbCovers a = true ↔ a.marked = true ∨ a.access.el.num < s.el.num ∧
      ¬(s.cfg.haveSPU = true ∧ s.spuInUse.get a.access.el = true) := by
  cases h : s.cfg.haveSPU <;> simp [State.dsbCovers, State.spuUsedAt, h]

section CompleteWalks
variable (s : State)
@[simp] theorem State.completeWalks_inFlight : s.completeWalks.inFlight = [] := rfl
@[simp] theorem State.completeWalks_spuWalks :
    s.completeWalks.spuWalks = s.spuWalks.filter (fun a => !s.dsbCovers a) := rfl
@[simp] theorem State.completeWalks_performed :
    s.completeWalks.performed =
      s.performed ++ s.inFlight.map (fun a => a.read) ++ s.coveredSpuReads := rfl
@[simp] theorem State.completeWalks_cfg : s.completeWalks.cfg = s.cfg := rfl
@[simp] theorem State.completeWalks_ss : s.completeWalks.ss = s.ss := rfl
@[simp] theorem State.completeWalks_el : s.completeWalks.el = s.el := rfl
@[simp] theorem State.completeWalks_pc : s.completeWalks.pc = s.pc := rfl
@[simp] theorem State.completeWalks_sp : s.completeWalks.sp = s.sp := rfl
@[simp] theorem State.completeWalks_lr : s.completeWalks.lr = s.lr := rfl
@[simp] theorem State.completeWalks_elr : s.completeWalks.elr = s.elr := rfl
@[simp] theorem State.completeWalks_regs : s.completeWalks.regs = s.regs := rfl
@[simp] theorem State.completeWalks_enabled : s.completeWalks.enabled = s.enabled := rfl
@[simp] theorem State.completeWalks_granules : s.completeWalks.granules = s.granules := rfl
@[simp] theorem State.completeWalks_mem : s.completeWalks.mem = s.mem := rfl
@[simp] theorem State.completeWalks_spuInUse : s.completeWalks.spuInUse = s.spuInUse := rfl
@[simp] theorem State.completeWalks_observations : s.completeWalks.observations = s.observations := rfl
@[simp] theorem State.completeWalks_unsettled : s.completeWalks.unsettled = s.unsettled := rfl
@[simp] theorem State.completeWalks_fetches : s.completeWalks.fetches = s.fetches := rfl
@[simp] theorem State.completeWalks_pending : s.completeWalks.pending = s.pending := rfl
end CompleteWalks

section MarkSpuWalks
variable (s : State)
@[simp] theorem State.markSpuWalks_spuWalks :
    s.markSpuWalks.spuWalks = s.spuWalks.map (SpuAccess.markBelow s.el) := rfl
@[simp] theorem State.markSpuWalks_inFlight : s.markSpuWalks.inFlight = s.inFlight := rfl
@[simp] theorem State.markSpuWalks_performed : s.markSpuWalks.performed = s.performed := rfl
@[simp] theorem State.markSpuWalks_cfg : s.markSpuWalks.cfg = s.cfg := rfl
@[simp] theorem State.markSpuWalks_ss : s.markSpuWalks.ss = s.ss := rfl
@[simp] theorem State.markSpuWalks_el : s.markSpuWalks.el = s.el := rfl
@[simp] theorem State.markSpuWalks_pc : s.markSpuWalks.pc = s.pc := rfl
@[simp] theorem State.markSpuWalks_sp : s.markSpuWalks.sp = s.sp := rfl
@[simp] theorem State.markSpuWalks_lr : s.markSpuWalks.lr = s.lr := rfl
@[simp] theorem State.markSpuWalks_elr : s.markSpuWalks.elr = s.elr := rfl
@[simp] theorem State.markSpuWalks_regs : s.markSpuWalks.regs = s.regs := rfl
@[simp] theorem State.markSpuWalks_enabled : s.markSpuWalks.enabled = s.enabled := rfl
@[simp] theorem State.markSpuWalks_granules : s.markSpuWalks.granules = s.granules := rfl
@[simp] theorem State.markSpuWalks_mem : s.markSpuWalks.mem = s.mem := rfl
@[simp] theorem State.markSpuWalks_spuInUse : s.markSpuWalks.spuInUse = s.spuInUse := rfl
@[simp] theorem State.markSpuWalks_observations : s.markSpuWalks.observations = s.observations := rfl
@[simp] theorem State.markSpuWalks_unsettled : s.markSpuWalks.unsettled = s.unsettled := rfl
@[simp] theorem State.markSpuWalks_fetches : s.markSpuWalks.fetches = s.fetches := rfl
@[simp] theorem State.markSpuWalks_pending : s.markSpuWalks.pending = s.pending := rfl
end MarkSpuWalks

section Exceptions
variable (s : State) (el : EL)
@[simp] theorem State.takeException_el : (s.takeException el).el = el := rfl
@[simp] theorem State.takeException_inFlight : (s.takeException el).inFlight = s.inFlight := rfl
@[simp] theorem State.takeException_spuWalks : (s.takeException el).spuWalks = s.spuWalks := rfl
@[simp] theorem State.takeException_regs : (s.takeException el).regs = s.regs := rfl
@[simp] theorem State.takeException_cfg : (s.takeException el).cfg = s.cfg := rfl
@[simp] theorem State.takeException_ss : (s.takeException el).ss = s.ss := rfl
@[simp] theorem State.takeException_mem : (s.takeException el).mem = s.mem := rfl
@[simp] theorem State.takeException_performed : (s.takeException el).performed = s.performed := rfl
@[simp] theorem State.takeException_observations :
    (s.takeException el).observations = s.observations := rfl
@[simp] theorem State.takeException_enabled : (s.takeException el).enabled = s.enabled := rfl
@[simp] theorem State.takeException_granules : (s.takeException el).granules = s.granules := rfl
@[simp] theorem State.takeException_unsettled : (s.takeException el).unsettled = s.unsettled := rfl
@[simp] theorem State.returnFromException_el : (s.returnFromException el).el = el := rfl
@[simp] theorem State.returnFromException_unsettled : (s.returnFromException el).unsettled = [] := rfl
@[simp] theorem State.returnFromException_inFlight :
    (s.returnFromException el).inFlight = s.inFlight := rfl
@[simp] theorem State.returnFromException_spuWalks :
    (s.returnFromException el).spuWalks = s.spuWalks := rfl
@[simp] theorem State.returnFromException_regs : (s.returnFromException el).regs = s.regs := rfl
@[simp] theorem State.returnFromException_cfg : (s.returnFromException el).cfg = s.cfg := rfl
@[simp] theorem State.returnFromException_ss : (s.returnFromException el).ss = s.ss := rfl
@[simp] theorem State.returnFromException_mem : (s.returnFromException el).mem = s.mem := rfl
@[simp] theorem State.returnFromException_performed :
    (s.returnFromException el).performed = s.performed := rfl
@[simp] theorem State.returnFromException_observations :
    (s.returnFromException el).observations = s.observations := rfl
@[simp] theorem State.returnFromException_enabled :
    (s.returnFromException el).enabled = s.enabled := rfl
@[simp] theorem State.returnFromException_granules :
    (s.returnFromException el).granules = s.granules := rfl
end Exceptions

section RecordAccess
variable (s : State) (va : VA) (r : AccessResult) (l : List TableRead)
@[simp] theorem State.recordAccess_performed :
    (s.recordAccess va r l).performed = s.performed ++ l := rfl
@[simp] theorem State.recordAccess_observations :
    (s.recordAccess va r l).observations = s.observations ++ [.access s.ctx va r] := rfl
@[simp] theorem State.recordAccess_cfg : (s.recordAccess va r l).cfg = s.cfg := rfl
@[simp] theorem State.recordAccess_el : (s.recordAccess va r l).el = s.el := rfl
@[simp] theorem State.recordAccess_ss : (s.recordAccess va r l).ss = s.ss := rfl
@[simp] theorem State.recordAccess_regs : (s.recordAccess va r l).regs = s.regs := rfl
@[simp] theorem State.recordAccess_enabled : (s.recordAccess va r l).enabled = s.enabled := rfl
@[simp] theorem State.recordAccess_granules : (s.recordAccess va r l).granules = s.granules := rfl
@[simp] theorem State.recordAccess_mem : (s.recordAccess va r l).mem = s.mem := rfl
@[simp] theorem State.recordAccess_inFlight : (s.recordAccess va r l).inFlight = s.inFlight := rfl
@[simp] theorem State.recordAccess_spuWalks : (s.recordAccess va r l).spuWalks = s.spuWalks := rfl
end RecordAccess

/-! ### Registers that hold addresses -/

@[simp] theorem State.readAddr_writeAddr_same (s : State) (r : AddrReg) (va : VA) :
    (s.writeAddr r va).readAddr r = va := by
  cases r <;> simp [State.writeAddr, State.readAddr]

theorem State.readAddr_writeAddr_ne (s : State) {r r' : AddrReg} (va : VA) (h : r' ≠ r) :
    (s.writeAddr r va).readAddr r' = s.readAddr r' := by
  cases r <;> cases r' <;>
    first
    | rfl
    | exact PerEL.get_set_ne _ va (fun e => h (by rw [e]))
    | exact absurd rfl h

end Machine

end Sys2Proof
end

