-- ==== Sys2Proof/Laws/Walk.lean ====
section
/-! SUPPORT. What the operations that keep a walk within the constraints of R84 do, whatever the open parameters
answer. -/

namespace Sys2Proof

/-- Every stage sees the Security state and the Exception level of an access. -/
@[simp] theorem Context.seenBy_ss (c : Context) (st : Stage) : (c.seenBy st).ss = c.ss := rfl
@[simp] theorem Context.seenBy_el (c : Context) (st : Stage) : (c.seenBy st).el = c.el := rfl

/-- A stage with neither HCR_EL2 nor SCR_EL3 in its row of Table D8-3 sees nothing else of the context. -/
theorem Context.seenBy_congr {c c' : Context} {st : Stage} (hss : c'.ss = c.ss) (hel : c'.el = c.el)
    (hhcr : .hcrEL2 ∈ controllingRegisters st → c'.e2h = c.e2h ∧ c'.tge = c.tge)
    (hscr : .scrEL3 ∈ controllingRegisters st →
      c'.eel2 = c.eel2 ∧ c'.nse = c.nse ∧ c'.ns = c.ns) : c'.seenBy st = c.seenBy st := by
  unfold Context.seenBy
  rw [hss, hel]
  by_cases h : .hcrEL2 ∈ controllingRegisters st <;> by_cases h' : .scrEL3 ∈ controllingRegisters st <;>
    simp [h, h', hhcr, hscr]

theorem permittedPASpace_constrain (ss : SecurityState) (p : PASpace) :
    permittedPASpace ss (constrainPASpace ss p) = true := by cases ss <;> cases p <;> rfl

/-- A permitted space is left as it is: the constraint shuts out no permitted answer. -/
theorem constrainPASpace_of_permitted {ss : SecurityState} {p : PASpace}
    (h : permittedPASpace ss p = true) : constrainPASpace ss p = p := by
  cases ss <;> cases p <;> first | rfl | exact absurd h (by decide)

theorem permittedIPASpace_constrain (w : World) (p : PASpace) :
    permittedIPASpace w (constrainIPASpace w p) = true := by cases w <;> cases p <;> rfl

theorem constrainIPASpace_of_permitted {w : World} {p : PASpace}
    (h : permittedIPASpace w p = true) : constrainIPASpace w p = p := by
  cases w <;> cases p <;> first | rfl | exact absurd h (by decide)

/-- The low bits of a constrained OA are those of the IA. -/
theorem constrainOA_low (g : Granule) (size page ia : Nat) :
    constrainOA g size page ia % 2 ^ pageBits g = ia % 2 ^ pageBits g := by
  simp [constrainOA, Nat.add_mod, Nat.mul_mod_left]

/-- A constrained OA has at most the stated number of bits. -/
theorem constrainOA_lt (g : Granule) {size : Nat} (page ia : Nat) (h : 16 ≤ size) :
    constrainOA g size page ia < 2 ^ size := by
  have hg := pageBits_le g
  have e : 2 ^ size = 2 ^ (size - pageBits g) * 2 ^ pageBits g := by
    rw [← Nat.pow_add]; congr 1; omega
  have h1 : page % 2 ^ (size - pageBits g) < 2 ^ (size - pageBits g) :=
    Nat.mod_lt _ (Nat.two_pow_pos _)
  have h2 : ia % 2 ^ pageBits g < 2 ^ pageBits g := Nat.mod_lt _ (Nat.two_pow_pos _)
  have h3 : (page % 2 ^ (size - pageBits g) + 1) * 2 ^ pageBits g ≤
      2 ^ (size - pageBits g) * 2 ^ pageBits g := Nat.mul_le_mul_right _ h1
  rw [Nat.add_mul, Nat.one_mul] at h3
  unfold constrainOA
  omega

/-- An OA within the constraints is reached by some page number: the constraint shuts none of them out. -/
theorem constrainOA_surjective (g : Granule) {size oa ia : Nat} (h : 16 ≤ size) (hoa : oa < 2 ^ size)
    (hlow : oa % 2 ^ pageBits g = ia % 2 ^ pageBits g) :
    constrainOA g size (oa / 2 ^ pageBits g) ia = oa := by
  have hg := pageBits_le g
  have e : 2 ^ size = 2 ^ pageBits g * 2 ^ (size - pageBits g) := by
    rw [← Nat.pow_add]; congr 1; omega
  have : oa / 2 ^ pageBits g < 2 ^ (size - pageBits g) :=
    Nat.div_lt_of_lt_mul (by rw [← e]; exact hoa)
  unfold constrainOA
  rw [Nat.mod_eq_of_lt this, ← hlow, Nat.mul_comm]
  exact Nat.div_add_mod oa _

theorem pickLevel_mem {levels : List Int} (h : levels ≠ []) (n : Nat) :
    pickLevel levels n ∈ levels := by
  have hl : n % levels.length < levels.length :=
    Nat.mod_lt _ (List.length_pos_iff.mpr h)
  simp [pickLevel, List.getD_eq_getElem?_getD, List.getElem?_eq_getElem hl]

theorem pageBase_mod (g : Granule) (ia : Nat) : pageBase g ia + ia % 2 ^ pageBits g = ia := by
  unfold pageBase
  rw [Nat.mul_comm]
  exact Nat.div_add_mod ia _

namespace Machine

theorem initialLevels_two (s : State) (st : Stage) : (2 : Int) ∈ initialLevels s st := by
  cases st with
  | one r => simp [initialLevels]
  | two w => exact permittedInitialLevels_two _ _ _ _

theorem initialLevels_bounds {s : State} {st : Stage} {l : Int} (h : l ∈ initialLevels s st) :
    -2 ≤ l ∧ l ≤ 3 := by
  cases st with
  | one r =>
    simp only [initialLevels, List.mem_cons, List.not_mem_nil, or_false] at h
    omega
  | two w => exact validInitialLevels_bounds _ _ (permittedInitialLevels_sub h)

theorem pickLevel_initialLevels (s : State) (st : Stage) (n : Nat) :
    pickLevel (initialLevels s st) n ∈ initialLevels s st :=
  pickLevel_mem (List.ne_nil_of_mem (initialLevels_two s st)) n

/-- What a read of a walk can be. -/
theorem mem_tableReads {o : OpenParameters} {inp : WalkInput} {start : Int} {more : Nat}
    {r : TableRead} (h : r ∈ tableReads o inp start more) :
    ∃ j : Nat, j ≤ more ∧ r.level = start + (j : Int) ∧ r.stage = inp.stage ∧
      r.pa < 2 ^ paSize inp.cfg ∧ permittedPASpace inp.ctx.ss r.space = true := by
  simp only [tableReads, List.mem_map, List.mem_range] at h
  obtain ⟨j, hj, rfl⟩ := h
  exact ⟨j, by omega, rfl, rfl, Nat.mod_lt _ (Nat.two_pow_pos _), permittedPASpace_constrain _ _⟩

/-- Everything a walk can come to: it starts at one of the initial levels of its stage, reads one entry at
each level from there to the last, which is at most 3, and either faults at the last level or gives an OA
and a space within the constraints. -/
theorem walk_cases (o : OpenParameters) (s : State) (c : Context) (st : Stage) (range : VARange)
    (ia : Nat) (inSpace : Option PASpace) :
    ∃ (inp : WalkInput) (start : Int) (more : Nat),
      start ∈ initialLevels s st ∧ start + (more : Int) ≤ 3 ∧
      inp.cfg = s.cfg ∧ inp.ctx = c.seenBy st ∧ inp.stage = st ∧
      (walk o s c st range ia inSpace).reads = tableReads o inp start more ∧
      ((∃ kind, (walk o s c st range ia inSpace).result =
          .fault { stage := st.number, level := start + (more : Int), kind := kind }) ∨
        ∃ page space info, (walk o s c st range ia inSpace).result =
          .ok (constrainOA (granuleOf s st range) (maxOASize s st range) page ia)
            (constrainSpace s.cfg c st space) (start + (more : Int)) info) := by
  have hstart := pickLevel_initialLevels s st
  have hmore : ∀ (a : Int) (n : Nat), a ∈ initialLevels s st →
      a + (moreLookupsWithin a n : Int) ≤ 3 := by
    intro a n ha
    have := initialLevels_bounds ha
    unfold moreLookupsWithin
    omega
  unfold walk
  dsimp only
  split
  · exact ⟨_, _, _, hstart _, hmore _ _ (hstart _), rfl, rfl, rfl, rfl, .inl ⟨_, rfl⟩⟩
  · exact ⟨_, _, _, hstart _, hmore _ _ (hstart _), rfl, rfl, rfl, rfl, .inr ⟨_, _, _, rfl⟩⟩

/-- Every read of a walk is made for its stage, at a level from -2 to 3, in memory that exists. -/
theorem walk_reads (o : OpenParameters) (s : State) (c : Context) (st : Stage) (range : VARange)
    (ia : Nat) (inSpace : Option PASpace) {r : TableRead}
    (h : r ∈ (walk o s c st range ia inSpace).reads) :
    r.stage = st ∧ -2 ≤ r.level ∧ r.level ≤ 3 ∧ r.pa < 2 ^ paSize s.cfg ∧
      permittedPASpace c.ss r.space = true := by
  obtain ⟨inp, start, more, hs, hm, hcfg, hctx, hstage, hr, -⟩ := walk_cases o s c st range ia inSpace
  rw [hr] at h
  obtain ⟨j, hj, hl, hst, hpa, hsp⟩ := mem_tableReads h
  rw [hcfg] at hpa
  rw [hctx, Context.seenBy_ss] at hsp
  rw [hstage] at hst
  have := initialLevels_bounds hs
  exact ⟨hst, by omega, by omega, hpa, hsp⟩

end Machine

end Sys2Proof
end

