-- ==== Sys2Proof/Laws/Translate.lean ====
section
/-! SUPPORT. What a stage and a translation can come to, said once. -/

namespace Sys2Proof.Machine

/-- A translation that goes through a stage 2 is of an EL1&0 regime, and `HasStage2` gives it that stage. -/
theorem stage2Of_some {cfg : Config} {regime : Regime} {c : Context} {w : World}
    (h : stage2Of cfg regime c = some w) : regime = .el10 w ∧ hasStage2 cfg regime c = true := by
  unfold stage2Of at h
  split at h
  · split at h
    · next hs =>
      cases h
      exact ⟨rfl, hs⟩
    · cases h
  · cases h

theorem flatStage_ok {o : OpenParameters} {s : State} {c : Context} {st : Stage} {ia : Nat}
    {inSpace : Option PASpace} {oa : Nat} {sp : PASpace} {l : Option Int} {info : Info}
    (h : flatStage o s c st ia inSpace = .ok oa sp l info) :
    oa = ia ∧ l = none ∧ (∃ p, sp = constrainSpace s.cfg c st p) ∧
      (st.number = .one → ia < 2 ^ paSize s.cfg) := by
  unfold flatStage at h
  split at h
  · cases h
  · next hn =>
    cases h
    exact ⟨rfl, rfl, ⟨_, rfl⟩, fun e => Nat.lt_of_not_le fun hle => hn ⟨e, hle⟩⟩

theorem checkOutput_ok {s : State} {st : Stage} {r : WalkResult} {oa : Nat} {sp : PASpace}
    {l : Option Int} {info : Info} (h : checkOutput s st r = .ok oa sp l info) :
    ∃ level, r = .ok oa sp level info ∧ l = some level ∧ oa < 2 ^ paSize s.cfg := by
  unfold checkOutput at h
  split at h
  · split at h
    · cases h
    · next hn => cases h; exact ⟨_, rfl, rfl, Nat.lt_of_not_le hn⟩
  · cases h

/-- Everything an enabled stage can come to, in the order of its checks. -/
theorem translateStage_enabled {o : OpenParameters} {s : State} {c : Context} {st : Stage} {ia : Nat}
    {inSpace : Option PASpace} (he : s.enabled.get st = true) :
    (granuleSupported s.cfg st.number (granuleOf s st (stageRange st ia)) = false ∧
        translateStage o s c st ia inSpace = { result := .refused .granuleNotSupported, reads := [] }) ∨
      granuleSupported s.cfg st.number (granuleOf s st (stageRange st ia)) = true ∧
      ((effectiveTnSZ s st (stageRange st ia) inSpace = none ∧
          translateStage o s c st ia inSpace =
            { result := .fault { stage := st.number, level := 0, kind := .translation }, reads := [] }) ∨
        ∃ t, effectiveTnSZ s st (stageRange st ia) inSpace = some t ∧
          ((inRange (stageRange st ia) (iaSize t) ia = false ∧
              translateStage o s c st ia inSpace =
                { result := .fault { stage := st.number, level := 0, kind := .translation },
                  reads := [] }) ∨
            inRange (stageRange st ia) (iaSize t) ia = true ∧
              translateStage o s c st ia inSpace =
                { result := checkOutput s st (walk o s c st (stageRange st ia) ia inSpace).result
                  reads := (walk o s c st (stageRange st ia) ia inSpace).reads })) := by
  unfold translateStage
  rw [if_neg (by simp [he])]
  dsimp only
  split
  · next h => exact .inl ⟨h, rfl⟩
  · next h =>
    refine .inr ⟨by simpa using h, ?_⟩
    split
    · next ht => exact .inl ⟨ht, rfl⟩
    · next t ht =>
      refine .inr ⟨t, ht, ?_⟩
      split
      · next hr => exact .inl ⟨hr, rfl⟩
      · next hr => exact .inr ⟨by simpa using hr, rfl⟩

/-- A disabled stage makes no walk. -/
theorem translateStage_disabled {o : OpenParameters} {s : State} {c : Context} {st : Stage} {ia : Nat}
    {inSpace : Option PASpace} (he : s.enabled.get st = false) :
    translateStage o s c st ia inSpace = { result := flatStage o s c st ia inSpace, reads := [] } := by
  unfold translateStage
  rw [if_pos he]

/-- What a stage that succeeds gives: its space is constrained, and its OA either fits the implemented PA
size or, for a disabled stage 2, is the IA. -/
theorem translateStage_ok {o : OpenParameters} {s : State} {c : Context} {st : Stage} {ia : Nat}
    {inSpace : Option PASpace} {oa : Nat} {sp : PASpace} {l : Option Int} {info : Info}
    (h : (translateStage o s c st ia inSpace).result = .ok oa sp l info) :
    (∃ p, sp = constrainSpace s.cfg c st p) ∧
      (oa < 2 ^ paSize s.cfg ∨ s.enabled.get st = false ∧ st.number = .two ∧ oa = ia) := by
  cases he : s.enabled.get st with
  | false =>
    rw [translateStage_disabled he] at h
    obtain ⟨rfl, -, hsp, hlt⟩ := flatStage_ok h
    refine ⟨hsp, ?_⟩
    cases hst : st.number with
    | one => exact .inl (hlt hst)
    | two => exact .inr ⟨rfl, rfl, rfl⟩
  | true =>
    rcases translateStage_enabled (o := o) (c := c) (ia := ia) (inSpace := inSpace) he with
      ⟨-, e⟩ | ⟨-, ⟨-, e⟩ | ⟨t, -, ⟨-, e⟩ | ⟨-, e⟩⟩⟩ <;> rw [e] at h
    · cases h
    · cases h
    · cases h
    · obtain ⟨level, hw, -, hlt⟩ := checkOutput_ok h
      obtain ⟨-, start, more, -, -, -, -, -, -, ⟨_, hf⟩ | ⟨page, space, info', hk⟩⟩ :=
        walk_cases o s c st (stageRange st ia) ia inSpace
      · rw [hf] at hw; cases hw
      · rw [hk] at hw; cases hw; exact ⟨⟨_, rfl⟩, .inl hlt⟩

/-- The reads of a stage are those of its walk. -/
theorem translateStage_reads {o : OpenParameters} {s : State} {c : Context} {st : Stage} {ia : Nat}
    {inSpace : Option PASpace} {r : TableRead}
    (h : r ∈ (translateStage o s c st ia inSpace).reads) :
    r.stage = st ∧ -2 ≤ r.level ∧ r.level ≤ 3 ∧ r.pa < 2 ^ paSize s.cfg ∧
      permittedPASpace c.ss r.space = true := by
  cases he : s.enabled.get st with
  | false => rw [translateStage_disabled he] at h; cases h
  | true =>
    rcases translateStage_enabled (o := o) (c := c) (ia := ia) (inSpace := inSpace) he with
      ⟨-, e⟩ | ⟨-, ⟨-, e⟩ | ⟨t, -, ⟨-, e⟩ | ⟨-, e⟩⟩⟩ <;> rw [e] at h
    · cases h
    · cases h
    · cases h
    · exact walk_reads _ _ _ _ _ _ _ h

/-- A fault of a stage carries the stage's own number. -/
theorem translateStage_fault {o : OpenParameters} {s : State} {c : Context} {st : Stage} {ia : Nat}
    {inSpace : Option PASpace} {f : MMUFault}
    (h : (translateStage o s c st ia inSpace).result = .fault f) : f.stage = st.number := by
  cases he : s.enabled.get st with
  | false =>
    rw [translateStage_disabled he] at h
    simp only [flatStage] at h
    split at h
    · next hc => cases h; exact hc.1.symm
    · cases h
  | true =>
    rcases translateStage_enabled (o := o) (c := c) (ia := ia) (inSpace := inSpace) he with
      ⟨-, e⟩ | ⟨-, ⟨-, e⟩ | ⟨t, -, ⟨-, e⟩ | ⟨-, e⟩⟩⟩ <;> rw [e] at h
    · cases h
    · cases h; rfl
    · cases h; rfl
    · obtain ⟨-, start, more, -, -, -, -, -, -, ⟨k, hf⟩ | ⟨page, space, info', hk⟩⟩ :=
        walk_cases o s c st (stageRange st ia) ia inSpace
      · rw [hf] at h; simp only [checkOutput] at h; cases h; rfl
      · rw [hk] at h; simp only [checkOutput] at h
        split at h <;> cases h
        rfl

/-- Everything the composition of the stages can come to when it succeeds. -/
theorem translateIn_ok {o : OpenParameters} {s : State} {c : Context} {regime : Regime} {va : Nat}
    {pa : Nat} {sp : PASpace} {info : Info}
    (h : (translateIn o s c regime va).result = .ok pa sp info) :
    ∃ oa sp1 l1 info1, (translateStage o s c (.one regime) va none).result = .ok oa sp1 l1 info1 ∧
      ((stage2Of s.cfg regime c = none ∧ pa = oa ∧ sp = sp1 ∧ info = info1) ∨
        ∃ w l2, stage2Of s.cfg regime c = some w ∧
          (translateStage o s c (.two w) oa (some sp1)).result = .ok pa sp l2 info) := by
  unfold translateIn at h
  dsimp only at h
  split at h
  · cases h
  · cases h
  · next oa sp1 l1 info1 h1 =>
    refine ⟨oa, sp1, l1, info1, h1, ?_⟩
    split at h
    · next hs => cases h; exact .inl ⟨hs, rfl, rfl, rfl⟩
    · next w hs =>
      split at h
      · cases h
      · cases h
      · next pa' sp2 l2 info2 h2 => cases h; exact .inr ⟨w, l2, hs, h2⟩

/-- The reads of a translation are those of its stages. -/
theorem translateIn_reads {o : OpenParameters} {s : State} {c : Context} {regime : Regime} {va : Nat}
    {r : TableRead} (h : r ∈ (translateIn o s c regime va).reads) :
    -2 ≤ r.level ∧ r.level ≤ 3 ∧ r.pa < 2 ^ paSize s.cfg ∧ permittedPASpace c.ss r.space = true := by
  have key : ∀ {st ia sp}, r ∈ (translateStage o s c st ia sp).reads →
      -2 ≤ r.level ∧ r.level ≤ 3 ∧ r.pa < 2 ^ paSize s.cfg ∧
        permittedPASpace c.ss r.space = true := fun h => (translateStage_reads h).2
  unfold translateIn at h
  dsimp only at h
  split at h
  · exact key h
  · exact key h
  · split at h
    · exact key h
    · split at h <;> rcases List.mem_append.mp h with h' | h' <;> exact key h'

/-- A translation that succeeds passed every check and is the composition of its regime's stages. -/
theorem translate_ok {o : OpenParameters} {s : State} {c : Context} {va : VA} {pa : Nat}
    {sp : PASpace} {info : Info} (h : (translate o s c va).result = .ok pa sp info) :
    ∃ regime, regimeOf c = some regime ∧ translationRefusal s c regime = none ∧
      (translateIn o s c regime (accessAddress s.cfg c va)).result = .ok pa sp info := by
  unfold translate at h
  split at h
  · cases h
  · next regime hr =>
    split at h
    · cases h
    · next ht => exact ⟨regime, hr, ht, h⟩

/-- The reads of a translation are those of its regime's stages. -/
theorem translate_reads {o : OpenParameters} {s : State} {c : Context} {va : VA} {r : TableRead}
    (h : r ∈ (translate o s c va).reads) :
    -2 ≤ r.level ∧ r.level ≤ 3 ∧ r.pa < 2 ^ paSize s.cfg ∧ permittedPASpace c.ss r.space = true := by
  unfold translate at h
  split at h
  · cases h
  · split at h
    · cases h
    · exact translateIn_reads h

/-- A context that passes the checks is well formed, in a configuration that is an implementation. -/
theorem translationRefusal_none {s : State} {c : Context} {regime : Regime}
    (h : translationRefusal s c regime = none) :
    configRefusal s.cfg = none ∧ contextRefusal s.cfg c regime = none ∧
      regimeRefusal s c regime = none := by
  unfold translationRefusal at h
  split at h
  · cases h
  · next h1 =>
    split at h
    · cases h
    · next h2 => exact ⟨h1, h2, h⟩

/-! ### What a stage depends on -/

/-- The D128 and DS fields of a stage are among those that serve each of its ranges. -/
theorem checkedFields_mem_walkFields (st : Stage) (range : VARange) (inSpace : Option PASpace) :
    (∀ r, d128ControlOf st = some r → .d128 r ∈ walkFields st range inSpace) ∧
      .ds (tcrOf st) ∈ walkFields st range inSpace := by
  have h : ∀ r f, f = SysField.d128 r ∨ (∃ g, f = SysField.ds g) →
      ∀ st range inSpace, f ∈ (controllingRegisters st).flatMap SysReg.fields →
      f ∈ walkFields st range inSpace := by
    intro r f hf st range inSpace hm
    refine List.mem_filter.mpr ⟨hm, ?_⟩
    rcases hf with rfl | ⟨g, rfl⟩ <;> rfl
  refine ⟨fun r e => h r _ (.inl rfl) _ _ _ ?_, h .tcrEL3 _ (.inr ⟨_, rfl⟩) _ _ _ ?_⟩
  · rcases st with (w | w | w | _) | w <;> try cases w
    all_goals first | (cases e; decide) | cases e
  · rcases st with (w | w | w | _) | w <;> try cases w
    all_goals decide

/-- Two states that agree on what serves a stage, for the range of an address, translate it alike: the
configuration, the Security state and Exception level executing, the memory, the stage's enable and granule,
the TnSZ used, and the fields of its registers that serve the range. -/
theorem translateStage_congr (o : OpenParameters) {s s' : State} (c : Context) {st : Stage} {ia : Nat}
    {inSpace : Option PASpace} (hcfg : s'.cfg = s.cfg) (hss : s'.ss = s.ss) (hel : s'.el = s.el)
    (hmem : s'.mem = s.mem)
    (hen : s'.enabled.get st = s.enabled.get st)
    (hg : granuleOf s' st (stageRange st ia) = granuleOf s st (stageRange st ia))
    (ht : s'.regs.read (tnszUsed st (stageRange st ia) inSpace) =
      s.regs.read (tnszUsed st (stageRange st ia) inSpace))
    (hw : ∀ f ∈ walkFields st (stageRange st ia) inSpace, s'.regs.read f = s.regs.read f) :
    translateStage o s' c st ia inSpace = translateStage o s c st ia inSpace := by
  obtain ⟨hd, hds⟩ := checkedFields_mem_walkFields st (stageRange st ia) inSpace
  have bits : ∀ a b : Bool, a.toNat = b.toNat → a = b := by decide
  have hd' : ∀ r, d128ControlOf st = some r → s'.regs.d128 r = s.regs.d128 r :=
    fun r e => bits _ _ (hw _ (hd r e))
  have hds' : s'.regs.ds (tcrOf st) = s.regs.ds (tcrOf st) := bits _ _ (hw _ hds)
  have hv : usesVMSAv9_128 s' st = usesVMSAv9_128 s st := by
    unfold usesVMSAv9_128
    cases h : d128ControlOf st with
    | none => rfl
    | some r => simp [hd' r h, hcfg]
  have hsys : systemOf s' st = systemOf s st := by unfold systemOf; rw [hv]
  have hfl : flatStage o s' c st ia inSpace = flatStage o s c st ia inSpace := by
    unfold flatStage; rw [hcfg]
  have hmo : maxOASize s' st (stageRange st ia) = maxOASize s st (stageRange st ia) := by
    unfold maxOASize; rw [hsys, hcfg, hg, hds']
  have heff : effectiveTnSZ s' st (stageRange st ia) inSpace =
      effectiveTnSZ s st (stageRange st ia) inSpace := by
    unfold effectiveTnSZ
    rw [ht]
    cases st with
    | one r => dsimp only; unfold effectiveTnSZS1 minTnSZS1; rw [hcfg, hg, hsys, hds']
    | two w =>
      have hg' : granuleOf s' (.two w) .single = granuleOf s (.two w) .single := hg
      dsimp only; unfold effectiveT0SZS2 minT0SZS2; rw [hcfg, hg', hsys]
  have hil : initialLevels s' st = initialLevels s st := by
    cases st with
    | one r => rfl
    | two w =>
      have hg' : granuleOf s' (.two w) .single = granuleOf s (.two w) .single := hg
      show permittedInitialLevels _ _ _ _ = permittedInitialLevels _ _ _ _
      unfold stage2Row; rw [hcfg, hg', hsys, hss, hel]
  have hwi : ∀ a, walkInput s' c st (stageRange st ia) a inSpace =
      walkInput s c st (stageRange st ia) a inSpace := by
    intro a
    unfold walkInput walkRegs
    rw [hcfg, hg, hmem, heff]
    congr 1
    exact List.map_congr_left fun f hf => by rw [hw f hf]
  have hwalk : walk o s' c st (stageRange st ia) ia inSpace =
      walk o s c st (stageRange st ia) ia inSpace := by
    unfold walk; simp only [hwi, hg, hil, hmo, hcfg]
  have hco : ∀ r, checkOutput s' st r = checkOutput s st r := by
    intro r; unfold checkOutput; rw [hcfg]
  unfold translateStage
  dsimp only
  rw [hen, hfl, heff, hg, hwalk, hcfg]
  simp only [hco]

/-- A stage translates alike in two contexts of one Security state that it sees alike and that have the same
stage 2 after it. -/
theorem translateStage_context (o : OpenParameters) (s : State) {c c' : Context} (st : Stage) (ia : Nat)
    (inSpace : Option PASpace) (hss : c'.ss = c.ss) (hseen : c'.seenBy st = c.seenBy st)
    (h2 : ∀ r, stage2Of s.cfg r c' = stage2Of s.cfg r c) :
    translateStage o s c' st ia inSpace = translateStage o s c st ia inSpace := by
  have hcs : ∀ p, constrainSpace s.cfg c' st p = constrainSpace s.cfg c st p := by
    intro p; unfold constrainSpace; simp only [h2, hss]
  have hwi : ∀ range a, walkInput s c' st range a inSpace = walkInput s c st range a inSpace := by
    intro range a; unfold walkInput; rw [hseen]
  have hfl : flatStage o s c' st ia inSpace = flatStage o s c st ia inSpace := by
    unfold flatStage; rw [hseen]; simp only [hcs]
  have hw : ∀ range, walk o s c' st range ia inSpace = walk o s c st range ia inSpace := by
    intro range; unfold walk; simp only [hwi, hcs]
  unfold translateStage
  simp only [hfl, hw]

end Sys2Proof.Machine
end

