-- ==== Sys2Proof/Laws/Step.lean ====
section
/-! SUPPORT. What a step can do, said once: the next states of the fetch, of each operation and of each
instruction. -/

namespace Sys2Proof.Machine

/-- A fetch that gives an instruction leaves the state as it was, but for the reads its translation made and
the count of fetches. -/
theorem fetch_ok {o : OpenParameters} {s t : State} {i : Instr} (h : fetch o s = .ok i t) :
    t = s.afterFetch (fetchPlaces o s).reads ∧ usesAArch64 s.cfg s.ss s.el = true ∧
      ∃ places bytes rest, (fetchPlaces o s).places = .ok places ∧
        readPlaces s.mem places = .ok bytes ∧ decode bytes = .ok (i, rest) := by
  unfold fetch at h
  split at h
  · cases h
  · next ha =>
    dsimp only at h
    split at h
    · cases h
    · cases h
    · next places hp =>
      split at h
      · cases h
      · next bytes hb =>
        split at h
        · next i' rest hd => cases h; exact ⟨rfl, by simpa using ha, _, _, _, hp, hb, hd⟩
        · cases h

/-- A fetch reaches places only in a configuration that is an implementation. -/
theorem fetchPlaces_ok {o : OpenParameters} {s : State} {places : List (PASpace × Nat)}
    (h : (fetchPlaces o s).places = .ok places) : configRefusal s.cfg = none := by
  have first : ∀ n l, (placesInPage o (s.forFetch o) (s.forFetch o).pc n).places = .ok l →
      configRefusal s.cfg = none := by
    intro n l hl
    unfold placesInPage at hl
    dsimp only at hl
    split at hl
    · next hr =>
      obtain ⟨regime, -, ht, -⟩ := translate_ok hr
      exact (translationRefusal_none ht).1
    · cases hl
    · cases hl
  unfold fetchPlaces at h
  dsimp only at h
  split at h
  · exact first _ _ h
  · split at h
    · next l hl => exact first _ l hl
    · exact first _ _ h

/-- What the PE's turn does: it executes the instruction it fetched. -/
theorem instructionTurn_next {s t : State} (h : instructionTurn s = .next t) :
    ∃ i u, fetch Config.openParameters s = .ok i u ∧ exec i u = .next t := by
  unfold instructionTurn at h
  split at h
  · next i u hf => exact ⟨i, u, hf, h⟩
  · cases h
  · cases h

/-- Everything an instruction can do. -/
theorem exec_next {i : Instr} {s t : State} (h : exec i s = .next t) :
    (∃ crm, i = .dsb crm ∧ t = s.completeWalks.advancePc) ∨
      (i = .psb ∧ t = (if s.cfg.haveSPU then s.markSpuWalks else s).advancePc) := by
  cases i with
  | dsb crm => left; exact ⟨crm, rfl, by simpa [exec, execDsb] using h.symm⟩
  | psb => right; exact ⟨rfl, by simpa [exec, execPsb] using h.symm⟩

/-- Everything a turn can do: the PE's turn, or an operation. -/
theorem turn_next {s t : State} (h : turn s = .next t) :
    (∃ u, u = { s with pending := u.pending } ∧ instructionTurn u = .next t) ∨
      ∃ op rest, s.pending = .operation op :: rest ∧
        perform Config.openParameters op { s with pending := rest } = .next t := by
  unfold turn at h
  split at h
  · exact .inl ⟨s, rfl, h⟩
  · next rest hp => exact .inl ⟨{ s with pending := rest }, rfl, h⟩
  · next op rest hp => exact .inr ⟨op, rest, hp, h⟩

/-- In a configuration that is an implementation a step is one turn. -/
theorem step_of_configRefusal {s : State} (h : configRefusal s.cfg = none) : step s = turn s := by
  unfold step; rw [h]

/-- A configuration that is no implementation takes no step (R271, R272). -/
theorem step_refused {s : State} {r : Refusal} (h : configRefusal s.cfg = some r) :
    step s = .refused r := by
  unfold step; rw [h]

/-- Everything a step can do: one turn, in a configuration that is an implementation. -/
theorem step_next {s t : State} (h : step s = .next t) :
    configRefusal s.cfg = none ∧
      ((∃ u, u = { s with pending := u.pending } ∧ instructionTurn u = .next t) ∨
        ∃ op rest, s.pending = .operation op :: rest ∧
          perform Config.openParameters op { s with pending := rest } = .next t) := by
  unfold step at h
  split at h
  · cases h
  · next hc => exact ⟨hc, turn_next h⟩

/-- Everything an access can come to: its result and its reads are recorded. -/
theorem opAccess_next {o : OpenParameters} {va : VA} {s t : State} (h : opAccess o va s = .next t) :
    ∃ r, t = s.recordAccess va r (translate o s s.ctx va).reads ∧
      ((∃ pa sp info, r = .ok pa sp info ∧ (translate o s s.ctx va).result = .ok pa sp info) ∨
        ∃ f, r = .fault f ∧ (translate o s s.ctx va).result = .fault f) := by
  unfold opAccess at h
  dsimp only at h
  split at h
  · next pa sp info hr => cases h; exact ⟨_, rfl, .inl ⟨pa, sp, info, rfl, hr⟩⟩
  · next f hr => cases h; exact ⟨_, rfl, .inr ⟨f, rfl, hr⟩⟩
  · cases h

/-- What setting a field does, where it is not refused. -/
theorem opSetField_next {f : SysField} {v : Nat} {s t : State} (h : opSetField f v s = .next t) :
    f.reg.accessibleFrom s.el = true ∧ f.fits v = true ∧
      t = { s with regs := s.regs.write f v } := by
  unfold opSetField at h
  split at h
  · cases h
  · next h1 =>
    split at h
    · cases h
    · next h2 => cases h; exact ⟨by simpa using h1, by simpa using h2, rfl⟩

/-- What reading a field back does, where it is not refused. -/
theorem opReadField_next {f : SysField} {s t : State} (h : opReadField f s = .next t) :
    f.reg.accessibleFrom s.el = true ∧
      t = { s with observations := s.observations ++ [.field f (s.regs.read f)] } := by
  unfold opReadField at h
  split at h
  · cases h
  · next h1 => cases h; exact ⟨by simpa using h1, rfl⟩

/-- What reading an identification field does, where it is not refused. -/
theorem opReadId_next {o : OpenParameters} {f : IdField} {s t : State}
    (h : opReadId o f s = .next t) :
    t = { s with observations := s.observations ++ [.idField f (idValue o s.cfg f)] } := by
  unfold opReadId at h
  split at h
  · cases h
  · cases h; rfl

/-- What selecting a granule does, where it is not refused. -/
theorem opSetGranule_next {st : Stage} {range : VARange} {g : Granule} {s t : State}
    (h : opSetGranule st range g s = .next t) :
    s.controls st = true ∧
      t = { s with granules := s.granules.set st ((s.granules.get st).set range g) } := by
  unfold opSetGranule at h
  split at h
  · cases h
  · next h1 => cases h; exact ⟨by simpa using h1, rfl⟩

/-- What enabling or disabling a stage does, where it is not refused. -/
theorem opSetEnabled_next {st : Stage} {b : Bool} {s t : State}
    (h : opSetEnabled st b s = .next t) :
    s.controls st = true ∧
      t = { s with enabled := s.enabled.set st b, unsettled := s.unsettledAfter st b } := by
  unfold opSetEnabled at h
  split at h
  · cases h
  · next h1 => cases h; exact ⟨by simpa using h1, rfl⟩

/-- What taking an exception does, where it is not refused. -/
theorem opExceptionTo_next {el : EL} {s t : State} (h : opExceptionTo el s = .next t) :
    s.el.num < el.num ∧ implementsEL s.cfg el = true ∧ t = s.takeException el := by
  unfold opExceptionTo at h
  split at h
  · cases h
  · next h1 =>
    split at h
    · cases h
    · next h2 => cases h; exact ⟨by omega, by simpa using h2, rfl⟩

/-- What returning from an exception does, where it is not refused. -/
theorem opExceptionReturn_next {el : EL} {s t : State} (h : opExceptionReturn el s = .next t) :
    el.num < s.el.num ∧ implementsEL s.cfg el = true ∧ t = s.returnFromException el := by
  unfold opExceptionReturn at h
  split at h
  · cases h
  · next h1 =>
    split at h
    · cases h
    · next h2 => cases h; exact ⟨by omega, by simpa using h2, rfl⟩

/-- What a write of another agent does, where the address exists. -/
theorem opMemWrite_next {sp : PASpace} {pa : Nat} {b : Byte} {s t : State}
    (h : opMemWrite sp pa b s = .next t) :
    pa < 2 ^ paSize s.cfg ∧ t = { s with mem := s.mem.write sp pa b } := by
  unfold opMemWrite at h
  split at h
  · cases h
  · next h1 => cases h; exact ⟨by omega, rfl⟩

/-- What an access of a walk begun speculatively is. -/
theorem mem_speculativeAccesses {o : OpenParameters} {s : State} {regime : Regime} {va : VA}
    {a : WalkAccess} (h : a ∈ speculativeAccesses o s regime va) :
    a.el = s.el ∧ a.regime = regime ∧ -2 ≤ a.read.level ∧ a.read.level ≤ 3 ∧
      a.read.pa < 2 ^ paSize s.cfg ∧
      permittedPASpace (s.walkerContext regime).ss a.read.space = true := by
  simp only [speculativeAccesses, List.mem_map] at h
  obtain ⟨r, hr, rfl⟩ := h
  exact ⟨rfl, rfl, translateIn_reads hr⟩

/-- The other fields of the state are untouched by the walker and the profiling unit. -/
theorem beginWalk_eq (o : OpenParameters) (s : State) (r : Regime) (va : VA) :
    s.beginWalk o r va = { s with inFlight := (s.beginWalk o r va).inFlight } := by
  unfold State.beginWalk; split <;> rfl

theorem performWalkAccess_eq (s : State) (n : Nat) :
    s.performWalkAccess n =
      { s with
        inFlight := (s.performWalkAccess n).inFlight
        performed := (s.performWalkAccess n).performed } := by
  unfold State.performWalkAccess; split <;> rfl

theorem beginSpuWalk_eq (o : OpenParameters) (s : State) (r : Regime) (va : VA) :
    s.beginSpuWalk o r va = { s with spuWalks := (s.beginSpuWalk o r va).spuWalks } := by
  unfold State.beginSpuWalk; split <;> rfl

theorem performSpuAccess_eq (s : State) (n : Nat) :
    s.performSpuAccess n =
      { s with
        spuWalks := (s.performSpuAccess n).spuWalks
        performed := (s.performSpuAccess n).performed } := by
  unfold State.performSpuAccess; split <;> rfl

theorem mem_performWalkAccess {s : State} {n : Nat} {a : WalkAccess}
    (h : a ∈ (s.performWalkAccess n).inFlight) : a ∈ s.inFlight := by
  unfold State.performWalkAccess at h
  split at h
  · exact List.mem_of_mem_eraseIdx h
  · exact h

theorem mem_performSpuAccess {s : State} {n : Nat} {a : SpuAccess}
    (h : a ∈ (s.performSpuAccess n).spuWalks) : a ∈ s.spuWalks := by
  unfold State.performSpuAccess at h
  split at h
  · exact List.mem_of_mem_eraseIdx h
  · exact h

theorem mem_beginWalk {o : OpenParameters} {s : State} {r : Regime} {va : VA} {a : WalkAccess}
    (h : a ∈ (s.beginWalk o r va).inFlight) :
    a ∈ s.inFlight ∨ walkPermitted s.el r = true ∧ a ∈ speculativeAccesses o s r va := by
  unfold State.beginWalk at h
  split at h
  · next hp => rcases List.mem_append.mp h with h' | h' <;> [exact .inl h'; exact .inr ⟨hp, h'⟩]
  · exact .inl h

theorem mem_beginSpuWalk {o : OpenParameters} {s : State} {r : Regime} {va : VA} {a : SpuAccess}
    (h : a ∈ (s.beginSpuWalk o r va).spuWalks) :
    a ∈ s.spuWalks ∨ s.cfg.haveSPU = true ∧ s.spuInUse.get s.el = true ∧
      walkPermitted s.el r = true ∧ a.marked = false ∧
      a.access ∈ speculativeAccesses o s r va := by
  unfold State.beginSpuWalk at h
  split at h
  · next hp =>
    simp only [State.spuUsedAt, Bool.and_eq_true] at hp
    rcases List.mem_append.mp h with h' | h'
    · exact .inl h'
    · obtain ⟨x, hx, rfl⟩ := List.mem_map.mp h'
      exact .inr ⟨hp.1.1, hp.1.2, hp.2, rfl, hx⟩
  · exact .inl h

@[simp] theorem markBelow_access (el : EL) (a : SpuAccess) :
    (SpuAccess.markBelow el a).access = a.access := by
  unfold SpuAccess.markBelow; split <;> rfl

theorem readPlaces_writePlaces_four (m : Memory) (p : List (PASpace × Nat)) (b : List Byte)
    (hl : p.length = b.length) (hn : p.Nodup) : readPlaces (writePlaces m p b) p = .ok b := by
  have frame : ∀ (q : List (PASpace × Nat)) (c : List Byte) (m : Memory) (sp : PASpace) (pa : Nat),
      (sp, pa) ∉ q → (writePlaces m q c).read sp pa = m.read sp pa := by
    intro q
    induction q with
    | nil => intro c m sp pa _; cases c <;> rfl
    | cons x q ih =>
      obtain ⟨xs, xa⟩ := x
      intro c m sp pa hx
      cases c with
      | nil => rfl
      | cons y c =>
        simp only [List.mem_cons, not_or] at hx
        rw [writePlaces, ih c _ sp pa hx.2]
        exact Memory.read_write_ne m y (fun e => hx.1 (by rw [e.1, e.2]))
  induction p generalizing m b with
  | nil => cases b <;> [rfl; cases hl]
  | cons x p ih =>
    obtain ⟨xs, xa⟩ := x
    cases b with
    | nil => cases hl
    | cons y b =>
      have hx := (List.nodup_cons.mp hn)
      have := ih (m.write xs xa y) b (by simpa using hl) hx.2
      simp only [writePlaces, readPlaces, frame p b _ xs xa hx.1, Memory.read_write_same, this]

end Sys2Proof.Machine
end

