-- ==== Sys2Proof/Tests/Slice0.lean ====
section
/-! SUPPORT. Tests: vectors of file 95 of the spec and words written out from R122 and R123, each a named theorem;
then, for each statement that has hypotheses, a state and operands that meet them together. -/

namespace Sys2Proof.Tests

open Sys2Proof Sys2Proof.Machine

/-! ### Encoding -/

/-- R122: 1101 0101 0000 0011 0011 CRm 1001 1111, with CRm = 1111 (DSB SY). -/
theorem test_decode_dsb_bits :
    decodeWord (0b11010101#8 ++ 0b00000011#8 ++ 0b0011#4 ++ 0b1111#4 ++ 0b10011111#8) =
      .ok (.dsb 0b1111) := by decide

/-- R122 with CRm = 0100: the option's bits in their places. -/
theorem test_decode_dsb_option :
    decodeWord (0b11010101#8 ++ 0b00000011#8 ++ 0b0011#4 ++ 0b0100#4 ++ 0b10011111#8) =
      .ok (.dsb 0b0100) := by decide

/-- R123: 1101 0101 0000 0011 0010 0010 0011 1111. -/
theorem test_decode_psb_bits :
    decodeWord (0b11010101#8 ++ 0b00000011#8 ++ 0b00100010#8 ++ 0b00111111#8) = .ok .psb := by
  decide

/-- A NOP is no row of the opcode table. -/
theorem test_decode_refuses_nop : decodeWord 0xD503201F = .error .notInOpcodeTable := by decide

/-- Too few bytes. -/
theorem test_decode_refuses_short : decode [0x9F, 0x3F, 0x03] = .error .truncated := by decide

theorem test_table_word_dsb : decodeTableWord 32 0xD5033F9F = some (.dsb 0b1111) := by decide
theorem test_table_word_psb : decodeTableWord 32 0xD503223F = some .psb := by decide

/-! ### Well-formedness -/

/-- PARange 0b1000 is reserved (R271). -/
theorem test_config_refuses_reserved_parange :
    Config.wellFormed { resetConfig with paRange := 0b1000 } = false := by decide
/-- A 52-bit PA size needs FEAT_LPA (R272). -/
theorem test_config_refuses_52_without_lpa :
    Config.wellFormed { resetConfig with paRange := 0b0110 } = false := by decide
theorem test_config_reset_is_wellformed : resetConfig.wellFormed = true := by decide
/-- 64 does not fit six bits (R126), 8 does not fit three (R125), 2 does not fit one. -/
theorem test_operation_refuses_values :
    Operation.wellFormed resetConfig (.setField (.t0sz .tcrEL1) 64) = false ∧
      Operation.wellFormed resetConfig (.setField (.oaSize .tcrEL1) 8) = false ∧
      Operation.wellFormed resetConfig (.setField .e2h 2) = false := by decide
/-- No memory at `2^48` on a 48-bit implementation (R270). -/
theorem test_operation_refuses_address :
    Operation.wellFormed resetConfig (.memWrite .nonSecure (2 ^ 48) 0) = false := by decide
/-- EL2 and EL3 are not implemented there (R22). -/
theorem test_operation_refuses_level :
    Operation.wellFormed resetConfig (.exceptionTo .el2) = false ∧
      Operation.wellFormed resetConfig (.exceptionReturn .el3) = false := by decide

/-! ### States -/

/-- A walk access of an EL1&0 walk that began at EL1. -/
def el1Walk : WalkAccess where
  el := .el1
  regime := .el10 .nonSecure
  read := { stage := .one (.el10 .nonSecure), level := 3, space := .nonSecure, pa := 0x1000 }

/-- A configuration with every Exception level, 40-bit PAs and the profiling unit (file 95, Program 2). -/
def fullConfig : Config :=
  { resetConfig with haveEL2 := true, haveEL3 := true, paRange := 0b0010, haveSPU := true }

/-- Non-secure EL1, stage 1 enabled, TCR_EL1.{T0SZ, T1SZ} = 25 (file 95, Program 1 after step 3). -/
def stage1State : State :=
  { State.reset with
    enabled := State.reset.enabled.set (.one (.el10 .nonSecure)) true
    regs := (resetRegs.write (.t0sz .tcrEL1) 25).write (.t1sz .tcrEL1) 25 }

/-- Non-secure EL1 with both stages enabled, VTCR_EL2.T0SZ = 24 (file 95, Program 2). -/
def stage2State : State :=
  { stage1State with
    cfg := fullConfig
    enabled := stage1State.enabled.set (.two .nonSecure) true
    regs := (stage1State.regs.write (.t0sz .vtcrEL2) 24).write .ns 1 }

/-- At an Exception level with a walk access of EL1 in flight and one, unmarked, of the profiling unit, which is
in use at EL1. -/
def walkingState (el : EL) : State :=
  { State.reset with
    cfg := fullConfig
    el := el
    inFlight := [el1Walk]
    spuWalks := [{ access := el1Walk, marked := false }]
    spuInUse := State.reset.spuInUse.set .el1 true }

/-- Open parameters whose walks end at level 3 in a given page. -/
def walksTo (page1 page2 : Nat) : OpenParameters :=
  { Config.openParameters with
    walkStart := fun inp => match inp.stage with | .one _ => 5 | .two _ => 0
    walkMoreLookups := fun _ => 5
    walkFault := fun _ => none
    walkPage := fun inp => match inp.stage with | .one _ => page1 | .two _ => page2
    walkInfo := fun _ => 0
    walkSpace := fun _ => .nonSecure
    tableEntry := fun _ _ => (.nonSecure, 0) }

/-! ### Translation, from file 95 -/

/-- Program 1, step 4. -/
theorem test_stage1_walk :
    (translate (walksTo 0x40001 0) stage1State stage1State.ctx 0x80001234).result =
      .ok 0x40001234 .nonSecure 0 := by decide
/-- Program 1, steps 5 and 7: just above the lower range, just below the upper range. -/
theorem test_stage1_range :
    (translate (walksTo 0 0) stage1State stage1State.ctx 0x0000008000000000) =
        { result := .fault { stage := .one, level := 0, kind := .translation }, reads := [] } ∧
      (translate (walksTo 0 0) stage1State stage1State.ctx 0xFFFFFF7FFFFFFFF8) =
        { result := .fault { stage := .one, level := 0, kind := .translation }, reads := [] } := by
  decide
/-- Program 1, step 6: the first address of the upper range. -/
theorem test_stage1_upper :
    (translate (walksTo 0x50000 0) stage1State stage1State.ctx 0xFFFFFF8000000000).result =
      .ok 0x50000000 .nonSecure 0 := by decide
/-- Program 1, step 2: stage 1 disabled, a VA above 48 bits. -/
theorem test_disabled_address_size :
    (translate (walksTo 0 0) .reset State.reset.ctx 0xFFFF000000000000).result =
      .fault { stage := .one, level := 0, kind := .addressSize } := by decide
/-- Program 2, step 1. -/
theorem test_two_stages :
    (translate (walksTo 0x80400 0xC0400) stage2State stage2State.ctx 0x400000).result =
      .ok 0xC0400000 .nonSecure 0 := by decide
/-- Program 2, step 2, with the OA given at level 3: an IPA of 2^40 on a 40-bit implementation. -/
theorem test_stage1_output_too_large :
    (translate (walksTo 0x10000000 0) stage2State stage2State.ctx 0x800000).result =
      .fault { stage := .one, level := 3, kind := .addressSize } := by decide
/-- Program 2, step 7: VTCR_EL2.T0SZ = 32 and an IPA of 2^32. -/
theorem test_ipa_too_large :
    (translate (walksTo 0x100000 0)
        { stage2State with regs := stage2State.regs.write (.t0sz .vtcrEL2) 32 } stage2State.ctx
        0x400000).result =
      .fault { stage := .two, level := 0, kind := .translation } := by decide
/-- R330, 2.9: bit 55 is clear, but the address is above the lower range. -/
theorem test_all_64_bits_checked :
    (translate (walksTo 0 0) stage1State stage1State.ctx 0xFF7FFFFFFFFFFFFF).result =
      .fault { stage := .one, level := 0, kind := .translation } := by decide

/-- 2.8, configurations A and B: the TnSZ in use. -/
theorem test_effective_tnsz :
    [16, 39, 40, 15].map (effectiveTnSZS1 stage1State (.el10 .nonSecure) .lower) =
        [some 16, some 39, some 39, some 16] ∧
      effectiveTnSZS1 { stage1State with regs := stage1State.regs.write (.ds .tcrEL1) 1 }
        (.el10 .nonSecure) .lower 11 = some 16 := by decide
/-- R322: a walk sees the TnSZ in use, 39, where the field holds 40. -/
theorem test_walk_sees_tnsz_in_use :
    let s : State := { stage1State with regs := stage1State.regs.write (.t0sz .tcrEL1) 40 }
    (walkInput s s.ctx (.one (.el10 .nonSecure)) .lower 0 none).regs.lookup (.t0sz .tcrEL1) = some 39 := by
  decide
/-- 2.11: PASize 40, 4KB granule. -/
theorem test_effective_t0sz :
    [24, 39, 40, 23].map (effectiveT0SZS2 stage2State .nonSecure) =
      [some 24, some 39, some 39, some 24] := by decide
/-- 2.11: PASize 32 and 36 with EL1 in AArch64 or AArch32, and PASize 56. -/
theorem test_min_t0sz :
    let s (p : BitVec 4) (a : Bool) : State :=
      { stage2State with
        cfg := { fullConfig with
          paRange := p, usesAArch64 := { fullConfig.usesAArch64 with el1 := a } } }
    [minT0SZS2 (s 0 true) .nonSecure, minT0SZS2 (s 0 false) .nonSecure,
      minT0SZS2 (s 1 true) .nonSecure, minT0SZS2 (s 1 false) .nonSecure,
      minT0SZS2 (s 7 true) .nonSecure] = [32, 24, 28, 24, 12] := by decide

/-- 2.3: EL0 moves to the EL2&0 regime for {E2H, TGE} = {1, 1} only; EL1 never does. -/
theorem test_regimes :
    let c (el : EL) (e2h tge : Bool) : Context :=
      { ss := .nonSecure, el := el, e2h := e2h, tge := tge, eel2 := false, nse := false, ns := true }
    [regimeOf (c .el0 true true), regimeOf (c .el0 true false), regimeOf (c .el0 false true),
        regimeOf (c .el1 true true), regimeOf (c .el2 true false), regimeOf (c .el2 false true)] =
      [some (.el20 .nonSecure), some (.el10 .nonSecure), some (.el10 .nonSecure),
        some (.el10 .nonSecure), some (.el20 .nonSecure), some (.el2 .nonSecure)] := by decide
/-- R176, R220, R223: without EL2, with EL3 and FEAT_RME, the stage 2 of Realm EL1&0 cannot be enabled, from EL3
either, so that stage 1 alone maps addresses; and neither an access from Realm EL2 nor one from Realm EL0 with
{E2H, TGE} = {1, 1} is translated. -/
theorem test_realm_without_el2 :
    let cfg : Config := { resetConfig with haveEL3 := true, featRME := true }
    let c (el : EL) : Context :=
      { ss := .realm, el := el, e2h := true, tge := true, eel2 := false, nse := true, ns := true }
    let s : State := { State.reset with cfg := cfg, el := .el3, ss := .root }
    stage2Of cfg (.el10 .realm) (c .el1) = some .realm ∧
      refusalOf? (perform (walksTo 0 0) (.setEnabled (.two .realm) true) s) = some .stageNotControlledHere ∧
      [(translate (walksTo 0 0) s (c .el2) 0).result, (translate (walksTo 0 0) s (c .el0) 0).result] =
        [.refused .contextNotWellFormed, .refused .regimeNotProvided] := by decide
/-- R227: with EL0 in AArch32 a VMSAv9-128 stage 2 is refused for an access from EL1 too. -/
theorem test_stage2_needs_vmsav8 :
    let s : State :=
      { stage2State with
        cfg := { fullConfig with
          supportsVMSAv9_128 := true, usesAArch64 := { fullConfig.usesAArch64 with el0 := false } }
        regs := stage2State.regs.write (.d128 .vtcrEL2) 1 }
    (translate (walksTo 0 0) s s.ctx 0).result = .refused .aarch32NeedsVMSAv8 := by decide
/-- R260: a walk of an EL2 regime, whose row of Table D8-3 lacks HCR_EL2, does not see TGE; an EL2&0 one does. -/
theorem test_walk_sees_its_registers :
    let s : State := { stage1State with regs := stage1State.regs.write .tge 1 }
    [Stage.one (.el2 .nonSecure), .one (.el20 .nonSecure)].map
        (fun st => (walkInput s s.ctx st .lower 0 none).ctx.tge) = [false, true] := by decide
/-- R357: a speculative walk begun at EL0 in AArch32 does not start at level 3 with the 4KB granule. -/
theorem test_initial_levels_of_the_pe :
    let s (el : EL) : State :=
      { stage2State with
        el := el
        cfg := { fullConfig with
          featTTST := true, usesAArch64 := { fullConfig.usesAArch64 with el0 := false } } }
    [(3 : Int) ∈ initialLevels (s .el0) (.two .nonSecure), 3 ∈ initialLevels (s .el1) (.two .nonSecure)] =
      [False, True] := by simp (decide := true)
/-- 2.4: the three contexts that are not well formed. -/
theorem test_contexts_refused :
    let c (ss : SecurityState) (el : EL) (nse ns : Bool) : Context :=
      { ss := ss, el := el, e2h := false, tge := false, eel2 := false, nse := nse, ns := ns }
    contextWellFormed fullConfig (c .realm .el1 true true) = false ∧
      contextWellFormed resetConfig (c .nonSecure .el2 false true) = false ∧
      contextWellFormed fullConfig (c .nonSecure .el1 true false) = false := by decide
/-- 2.5: where the walker may start. -/
theorem test_walk_permitted :
    [walkPermitted .el3 .el3, walkPermitted .el3 (.el2 .secure), walkPermitted .el3 (.el10 .realm),
        walkPermitted .el2 .el3, walkPermitted .el2 (.el20 .realm), walkPermitted .el2 (.el10 .secure),
        walkPermitted .el1 (.el2 .secure), walkPermitted .el0 .el3] =
      [true, false, false, true, true, false, true, true] := by decide
/-- 2.6: the OA size, clamped and not. -/
theorem test_oa_size :
    let s (v : Nat) (p : BitVec 4) : State :=
      { stage1State with
        cfg := { resetConfig with paRange := p }, regs := resetRegs.write (.oaSize .tcrEL1) v }
    [oaSize (s 0b101 0b0010) (.one (.el10 .nonSecure)), oaSize (s 0b010 0b0101) (.one (.el10 .nonSecure)),
      oaSize (s 0b111 0b0110) (.one (.el10 .nonSecure))] = [40, 40, 52] := by decide

/-! ### Steps -/

/-- R254: the DSB at EL2 performs the walk access in flight from EL1, and leaves the unit's. -/
theorem test_dsb_completes :
    (nextState? (exec (.dsb 0b1111) (walkingState .el2))).map
        (fun t => (t.inFlight, t.performed, t.spuWalks.length, t.pc)) =
      some ([], [el1Walk.read], 1, 4) := by decide
/-- R255: the unit no longer in use at EL1, the DSB performs its access too; one of EL2 itself stays. -/
theorem test_dsb_unit_not_in_use :
    let a : SpuAccess := { access := { el1Walk with el := .el2 }, marked := false }
    (nextState? (exec (.dsb 0b1111) { walkingState .el2 with
        spuWalks := a :: (walkingState .el2).spuWalks, spuInUse := State.reset.spuInUse })).map
        (fun t => (t.performed, t.spuWalks)) =
      some ([el1Walk.read, el1Walk.read], [a]) := by decide
/-- R257: the PSB marks the unit's access and performs none. -/
theorem test_psb_marks :
    (nextState? (exec .psb (walkingState .el2))).map
        (fun t => (t.inFlight, t.performed, t.spuWalks.map (fun a => a.marked), t.pc)) =
      some ([el1Walk], [], [true], 4) := by decide
/-- The first step after reset fetches and runs a DSB, and a PSB. -/
theorem test_step_runs_dsb :
    (nextState? (step (State.reset.withFetchWord 32 0xD5033F9F))).map (fun t => (t.pc, t.fetches)) =
      some (4, 1) := by decide
theorem test_step_runs_psb :
    (nextState? (step (State.reset.withFetchWord 32 0xD503223F))).map (fun t => (t.pc, t.fetches)) =
      some (4, 1) := by decide
/-- Nothing was written where the first fetch of the reset state reads. -/
theorem test_step_from_reset :
    faultOf? (step State.reset) = some (.unwrittenMemory .nonSecure 0) := by decide
/-- R129: a scheduled operation is what the step does. -/
theorem test_step_operation :
    (nextState? (step { State.reset with pending := [.operation (.setField (.t0sz .tcrEL1) 25)] })).map
        (fun t => (t.regs.read (.t0sz .tcrEL1), t.pc, t.pending)) = some (25, 0, []) := by decide
/-- R271: an implementation with a reserved PARange takes no step, be it a memory write. -/
theorem test_step_configuration_refused :
    refusalOf? (step { State.reset with
        cfg := { resetConfig with paRange := 0b1000 }
        pending := [.operation (.memWrite .nonSecure 0 0)] }) = some .reservedPARange := by decide
/-- R26: EL1 cannot set a field of VTCR_EL2. -/
theorem test_step_register_refused :
    refusalOf? (step { State.reset with pending := [.operation (.setField (.t0sz .vtcrEL2) 25)] }) =
      some .registerNotAccessible := by decide

/-! ### Witnesses of the statements' hypotheses

Each theorem shows a concrete state and operands that meet all the hypotheses of the statement it is named
after, one for each clause at the ends of its range. -/

/-- The reset state with a DSB where its next step fetches. -/
def dsbState : State := State.reset.withFetchWord 32 0xD5033F9F

/-- A state whose next turn is an operation. -/
def opState (s : State) (op : Operation) : State := { s with pending := [.operation op] }

theorem witness_DecodeBytesIffEncode : Instr.wellFormed (.dsb 0b1111) = true ∧ Instr.psb.wellFormed = true := by
  decide

/-- A DSB at the places of the fetch; nothing written there; four bytes that are no instruction. -/
theorem witness_StepRunsDecodedInstruction :
    let places : List (PASpace × Nat) := [(.nonSecure, 0), (.nonSecure, 1), (.nonSecure, 2), (.nonSecure, 3)]
    (usesAArch64 dsbState.cfg dsbState.ss dsbState.el = true ∧ Instr.wellFormed (.dsb 0b1111) = true ∧
        (fetchPlaces Config.openParameters dsbState).places = .ok places ∧
        readPlaces dsbState.mem places = .ok [0x9F, 0x3F, 0x03, 0xD5] ∧
        decode [0x9F, 0x3F, 0x03, 0xD5] = .ok (.dsb 0b1111, []) ∧ dsbState.pending = []) ∧
      (State.reset.cfg.wellFormed = true ∧ usesAArch64 State.reset.cfg State.reset.ss State.reset.el = true ∧
        (fetchPlaces Config.openParameters .reset).places = .ok places ∧
        readPlaces State.reset.mem places = .error (.nonSecure, 0)) ∧
      decode [0, 0, 0, 0] = .error .notInOpcodeTable := by decide

/-- The PE's turn that meets a fault and one that meets a refusal of the translation, and one in AArch32 state. -/
theorem witness_StepRunsDecodedInstruction_stops :
    let far : State := { State.reset with pc := BitVec.ofNat 64 (2 ^ 48) }
    let small : State := { stage1State with
      granules := stage1State.granules.set (.one (.el10 .nonSecure)) { lower := .g64KB, upper := .g4KB } }
    let a32 : Config := { resetConfig with usesAArch64 := { resetConfig.usesAArch64 with el0 := false } }
    (fetchPlaces Config.openParameters far).places =
        .fault { stage := .one, level := 0, kind := .addressSize } ∧
      (fetchPlaces Config.openParameters small).places = .refused .granuleNotSupported ∧
      a32.wellFormed = true ∧ usesAArch64 a32 .nonSecure .el0 = false := by decide

/-- An implementation, a reserved PARange, and a 52-bit PA size without FEAT_LPA. -/
theorem witness_StepPerformsScheduledOperation :
    resetConfig.wellFormed = true ∧ paRangeBits 0b1000 = none ∧ paRangeBits 0b0110 = some 52 ∧
      resetConfig.featLPA = false := by decide

theorem witness_StepKeepsConfiguration : ∃ t, step dsbState = .next t := ⟨_, rfl⟩

theorem witness_StepKeepsInvariant : dsbState.inv = true ∧ ∃ t, step dsbState = .next t :=
  ⟨by decide, _, rfl⟩

/-- The unit in use at the lower level, and an access made at the current one. -/
theorem witness_DsbNextState :
    (∃ a ∈ (walkingState .el2).spuWalks, a.marked = false ∧ (walkingState .el2).cfg.haveSPU = true ∧
        (walkingState .el2).spuInUse.get a.access.el = true) ∧
      ∃ a ∈ (walkingState .el1).spuWalks, a.marked = false ∧
        (walkingState .el1).el.num ≤ a.access.el.num := by decide

/-- The unit not in use at EL1, where its walk access was made, and in use there. -/
theorem witness_ExceptionThenBarriersCompleteLowerWalks :
    let s := { walkingState .el1 with spuInUse := State.reset.spuInUse }
    (s.el.num < EL.el2.num ∧ implementsEL s.cfg .el2 = true ∧
        (∀ a ∈ s.spuWalks, a.access.el.num < EL.el2.num → s.cfg.haveSPU = true →
          s.spuInUse.get a.access.el = false) ∧ s.inFlight ≠ [] ∧ s.spuWalks ≠ []) ∧
      (walkingState .el1).el.num < EL.el2.num ∧ implementsEL (walkingState .el1).cfg .el2 = true ∧
      ∃ a ∈ (walkingState .el1).spuWalks, a.access.el.num < EL.el2.num ∧
        (walkingState .el1).spuUsedAt a.access.el = true := by decide

theorem witness_ContextOperationsChangeOnlyTheContext :
    ((walkingState .el2).el.num < EL.el3.num ∧ implementsEL (walkingState .el2).cfg .el3 = true) ∧
      EL.el0.num < (walkingState .el1).el.num ∧ implementsEL (walkingState .el1).cfg .el0 = true := by
  decide

/-- At EL2 and at EL3, with a walk access of EL1 in flight and one of the unit that stay where they are; an
access of an EL2 walk that began at EL1, in flight at EL3. -/
theorem witness_NoOutOfContextWalkBegins :
    (∃ t, step (opState (walkingState .el2) (.walkerBegin (.el10 .nonSecure) 0)) = .next t ∧
        el1Walk ∈ t.inFlight ∧ t.spuWalks ≠ []) ∧
      (∃ t, step (opState (walkingState .el3) (.walkerBegin (.el10 .nonSecure) 0)) = .next t ∧
        el1Walk ∈ t.inFlight ∧ t.spuWalks ≠ []) ∧
      ∃ t, step (opState { walkingState .el3 with inFlight := [{ el1Walk with regime := .el2 .nonSecure }] }
          (.walkerBegin (.el2 .nonSecure) 0)) = .next t ∧
        { el1Walk with regime := .el2 .nonSecure } ∈ t.inFlight :=
  ⟨⟨_, rfl, by decide, by decide⟩, ⟨_, rfl, by decide, by decide⟩, _, rfl, by decide⟩

/-- A walk that is not permitted, and one that is, with accesses. -/
theorem witness_SpeculativeWalkOnlyAddsAccesses :
    walkPermitted (walkingState .el2).el (.el10 .nonSecure) = false ∧
      walkPermitted stage1State.el (.el10 .nonSecure) = true ∧
      speculativeAccesses (walksTo 0 0) stage1State (.el10 .nonSecure) 0 ≠ [] := by decide

/-- The first access in flight of each list, and the first number that has none. -/
theorem witness_PerformedAccessesLeaveFlight :
    let s := walkingState .el2
    s.inFlight[0]? = some el1Walk ∧ s.inFlight.length ≤ 1 ∧
      s.spuWalks[0]? = some { access := el1Walk, marked := false } ∧ s.spuWalks.length ≤ 1 := by decide

/-- The unit in use at EL1, where every regime may be walked; not in use at EL2. -/
theorem witness_ProfilingUnitWalks :
    let s := walkingState .el1
    (s.cfg.haveSPU = true ∧ s.spuInUse.get s.el = true ∧ walkPermitted s.el (.el10 .nonSecure) = true) ∧
      ¬((walkingState .el2).spuInUse.get (walkingState .el2).el = true) := by decide

/-- The greatest value of a field, and the lowest level that can access its register. -/
theorem witness_RegisterAccessFollowsTheSuffix :
    (SysField.t0sz .vtcrEL2).fits 63 = true ∧ (SysField.t0sz .vtcrEL2).fits 64 = false ∧
      (SysField.t0sz .vtcrEL2).reg.lowestEL.num ≤ (walkingState .el2).el.num ∧ State.reset.el ≠ .el0 ∧
      ¬ (SysField.t0sz .vtcrEL2).reg.lowestEL.num ≤ (walkingState .el1).el.num := by decide

/-- The greatest value that fits, and the least that does not. -/
theorem witness_SetFieldSetsOneField :
    (SysField.oaSize .tcrEL3).fits 7 = true ∧ (SysField.oaSize .tcrEL3).fits 8 = false ∧
      (SysField.oaSize .tcrEL3).reg.lowestEL.num ≤ (walkingState .el3).el.num := by decide

theorem witness_ReadsShowTheRegister :
    (SysField.t1sz .tcrEL1).reg.lowestEL.num ≤ State.reset.el.num ∧ State.reset.el ≠ .el0 ∧
      ({ resetConfig with featGTG := true } : Config).featGTG = true := by decide

theorem witness_EL0ChangesNoTranslationControl :
    ({ dsbState with el := .el0 } : State).el = .el0 ∧
      ∃ t, step { dsbState with el := .el0 } = .next t := ⟨rfl, _, rfl⟩

/-- A stage that translates the software itself, and one that does not; a stage 2 that EL1 does not control, and
a Secure stage that Non-secure state does not. -/
theorem witness_SetEnabledSetsOneStage :
    State.reset.controls (.two .nonSecure) = false ∧
      State.reset.controls (.one (.el10 .secure)) = false ∧
    State.reset.controls (.one (.el10 .nonSecure)) = true ∧
      State.reset.translatedBy (.one (.el10 .nonSecure)) = true ∧
      (walkingState .el2).controls (.two .nonSecure) = true ∧
      (walkingState .el2).translatedBy (.two .nonSecure) = false := by decide

/-- Each range of a stage 1 selected where it is controlled; an enabled stage with an unsupported granule. -/
theorem witness_GranuleSelectionAndSupport :
    let st : Stage := .one (.el10 .nonSecure)
    let s := { stage1State with
      granules := stage1State.granules.set st { lower := .g64KB, upper := .g4KB } }
    s.controls st = true ∧ (Stage.two .nonSecure) ≠ st ∧ VARange.lower ≠ .upper ∧ s.enabled.get st = true ∧
      granuleSupported s.cfg st.number (granuleOf s st (stageRange st 0)) = false := by decide

/-- A PC at a page's last word; one that a fault and one that a refusal meets; and, three bytes and one byte
before the end of a page, one whose second page translates and one whose second page is past the lower range; at
the top of the VA space, one whose second page has an unsupported granule. -/
theorem witness_FetchTranslatesThePC :
    let o := walksTo 5 0
    let r (pc n : Nat) : Translation :=
      (translate o (({ stage1State with pc := BitVec.ofNat 64 pc } : State).forFetch o) stage1State.ctx
        (BitVec.ofNat 64 pc + BitVec.ofNat 64 n)).result
    let bad : State := { stage1State with cfg := { resetConfig with paRange := 0b1000 } }
    let small : State := { stage1State with
      granules := stage1State.granules.set (.one (.el10 .nonSecure)) { lower := .g64KB, upper := .g4KB } }
    let range : MMUFault := { stage := .one, level := 0, kind := .translation }
    Stage.two .nonSecure ∉
        ({ State.reset with unsettled := [.one (.el10 .nonSecure)] } : State).unsettled ∧
      (0xFFC % 4096 ≤ 4092 ∧ r 0xFFC 0 = .ok 0x5FFC .nonSecure 0) ∧
      r (2 ^ 39) 0 = .fault range ∧
      (translate o (bad.forFetch o) bad.ctx 0).result = .refused .reservedPARange ∧
      (0xFFD % 4096 + 3 = 4096 ∧ r 0xFFD 0 = .ok 0x5FFD .nonSecure 0 ∧ r 0xFFD 3 = .ok 0x5000 .nonSecure 0) ∧
      (2 ^ 39 - 1) % 4096 + 1 = 4096 ∧ r (2 ^ 39 - 1) 0 = .ok 0x5FFF .nonSecure 0 ∧
      r (2 ^ 39 - 1) 1 = .fault range ∧
      (2 ^ 64 - 1) % 4096 + 1 = 4096 ∧
      (translate o (small.forFetch o) small.ctx (BitVec.ofNat 64 (2 ^ 64 - 1))).result =
        .ok 0x5FFF .nonSecure 0 ∧
      (translate o (small.forFetch o) small.ctx 0).result = .refused .granuleNotSupported := by decide

/-- Realm state without EL2, and Non-secure state without it: a stage 1 that translates. -/
theorem witness_Stage2Existence :
    let cfg : Config := { resetConfig with haveEL3 := true, featRME := true }
    let s : State := { stage1State with cfg := cfg, enabled := stage1State.enabled.set (.one (.el10 .realm)) true }
    let c : Context :=
      { ss := .realm, el := .el1, e2h := false, tge := false, eel2 := false, nse := true, ns := true }
    let o : OpenParameters := { walksTo 5 0 with walkSpace := fun _ => .realm }
    (s.inv = true ∧ s.cfg.haveEL2 = false ∧ stage2Of cfg (.el10 .realm) c = some .realm ∧
        (translateStage o s c (.one (.el10 .realm)) 0xFFF none).result = .ok 0x5FFF .realm (some 3) 0) ∧
      stage1State.inv = true ∧ stage1State.cfg.haveEL2 = false ∧
      (translateStage (walksTo 5 0) stage1State stage1State.ctx (.one (.el10 .nonSecure)) 0xFFF none).result =
        .ok 0x5FFF .nonSecure (some 3) 0 := by decide

theorem witness_MemWriteSetsOneByte :
    2 ^ 48 - 1 < 2 ^ paSize State.reset.cfg ∧ State.reset.mem.wf = true ∧
      ¬(PASpace.secure = PASpace.nonSecure ∧ 2 ^ 48 - 1 = 2 ^ 48 - 1) := by decide

theorem witness_SystemSelection :
    ({ resetConfig with supportsVMSAv9_128 := true } : Config).supportsVMSAv9_128 = true ∧
      resetConfig.supportsVMSAv9_128 = false := by decide

theorem witness_TranslatedContextsAreWellFormed :
    ∀ r, (translate (walksTo 0x80400 0xC0400) stage2State stage2State.ctx 0x400000).result ≠ .refused r := by
  intro r h
  rw [test_two_stages] at h
  cases h

/-- Realm EL0 with {E2H, TGE} = {1, 1} without EL2; Secure EL1 where Non-secure is the sole state; an EL2 regime
with PS = 0b111; Realm EL2 without EL2. -/
theorem witness_RegimesAndAccessesRefused :
    let c (ss : SecurityState) (el : EL) (e : Bool) : Context :=
      { ss := ss, el := el, e2h := e, tge := e, eel2 := false
        nse := decide (ss = .realm), ns := decide (ss ≠ .secure) }
    let cfg : Config := { resetConfig with haveEL3 := true, featRME := true }
    (cfg.wellFormed = true ∧ regimeOf (c .realm .el0 true) = some (.el20 .realm) ∧
        contextWellFormed cfg (c .realm .el0 true) = true ∧ cfg.haveEL2 = false) ∧
      (resetConfig.wellFormed = true ∧ regimeOf (c .secure .el1 false) = some (.el10 .secure) ∧
        contextWellFormed resetConfig (c .secure .el1 false) = true ∧ resetConfig.haveEL2 = false ∧
        resetConfig.haveEL3 = false ∧ World.secure.ss ≠ resetConfig.soleSecurityState) ∧
      (fullConfig.wellFormed = true ∧ regimeOf (c .nonSecure .el2 false) = some (.el2 .nonSecure) ∧
        contextRefusal fullConfig (c .nonSecure .el2 false) (.el2 .nonSecure) = none ∧
        (resetRegs.write (.oaSize .tcrEL2) 7).read (.oaSize .tcrEL2) = 0b111) ∧
      regimeOf (c .realm .el2 false) = some (.el2 .realm) ∧
      implementsEL cfg (c .realm .el2 false).el = false := by decide

/-- EL0 in AArch32: with a VMSAv9-128 stage 1, in Realm state without support, and, the access made from EL1,
with a VMSAv9-128 stage 2. -/
theorem witness_AArch32NeedsVMSAv8 :
    let cfg : Config := { fullConfig with
      featRME := true, supportsVMSAv9_128 := true
      usesAArch64 := { fullConfig.usesAArch64 with el0 := false } }
    let c (ss : SecurityState) (el : EL) : Context :=
      { ss := ss, el := el, e2h := false, tge := false, eel2 := false
        nse := decide (ss = .realm), ns := true }
    let s (f : D128Reg) : State := { State.reset with cfg := cfg, regs := resetRegs.write (.d128 f) 1 }
    cfg.wellFormed = true ∧ cfg.usesAArch64.el0 = false ∧
      (regimeOf (c .nonSecure .el0) = some (.el10 .nonSecure) ∧
        contextRefusal cfg (c .nonSecure .el0) (.el10 .nonSecure) = none ∧
        usesVMSAv9_128 (s .tcr2EL1) (.one (.el10 .nonSecure)) = true) ∧
      (regimeOf (c .realm .el0) = some (.el10 .realm) ∧ cfg.realmEL0AArch32 = false ∧
        contextWellFormed cfg (c .realm .el0) = true ∧ regimeProvided cfg (.el10 .realm) = true) ∧
      regimeOf (c .nonSecure .el1) = some (.el10 .nonSecure) ∧
      stage2Of cfg (.el10 .nonSecure) (c .nonSecure .el1) = some .nonSecure ∧
      contextRefusal cfg (c .nonSecure .el1) (.el10 .nonSecure) = none ∧
      cfg.haveEL2 = true ∧
      usesAArch64 cfg World.nonSecure.ss .el0 = false ∧ usesAArch64 cfg World.nonSecure.ss .el2 = true ∧
      usesVMSAv9_128 (s .vtcrEL2) (.two .nonSecure) = true := by decide

theorem witness_Stage2WalkStartsAtPermittedLevel :
    (2 : Int) ≠ 3 ∧ (-3 : Int) ≠ 3 := by decide

/-- {I}PS = 0b101, 48 bits: on a 48-bit implementation, and on a 44-bit one. -/
theorem witness_OASizeIsClamped :
    let s (p : BitVec 4) : State :=
      { State.reset with
        cfg := { resetConfig with paRange := p }, regs := resetRegs.write (.oaSize .tcrEL1) 0b101 }
    psBits ((s 0b0101).regs.oaSize .tcrEL1) ≤ paSize (s 0b0101).cfg ∧
      paSize (s 0b0100).cfg < psBits ((s 0b0100).regs.oaSize .tcrEL1) := by decide

/-- A TnSZ above the maximum, at stage 1 and at stage 2: the value in use. -/
theorem witness_WalkSeesEffectiveValues :
    let s : State :=
      { stage2State with
        regs := (stage2State.regs.write (.t0sz .tcrEL1) 40).write (.t0sz .vtcrEL2) 40 }
    s.cfg.wellFormed = true ∧
      effectiveTnSZ s (.one (.el10 .nonSecure)) (stageRange (.one (.el10 .nonSecure)) 0) none = some 39 ∧
      effectiveTnSZ s (.two .nonSecure) .single (some .nonSecure) = some 39 ∧
      permittedIPASpace .nonSecure .nonSecure = true ∧ permittedIPASpace .secure .secure = true ∧
      tableBase (.el10 .nonSecure) .upper ≠ tableBase (.el10 .nonSecure) .lower ∧
      tableBaseS2 .nonSecure ≠ tableBaseS2 .secure ∧
      (SysField.oaSize (tcrOf (.two .nonSecure)), 0) ∈
        (walkInput s s.ctx (.two .nonSecure) .single 0 (some .nonSecure)).regs := by decide

/-- The ends of each kind of range, inside and outside. -/
theorem witness_InRangeIffWithinRangeOf :
    (64 ≤ 64 ∧ 2 ^ 64 - 1 < 2 ^ 64) ∧
      [0, 2 ^ 39 - 1, 2 ^ 39].map (inRange .lower 39) = [true, true, false] ∧
      [0, 2 ^ 16 - 1, 2 ^ 16].map (inRange .single 16) = [true, true, false] ∧
      [2 ^ 64 - 2 ^ 39 - 1, 2 ^ 64 - 2 ^ 39, 2 ^ 64 - 1].map (inRange .upper 39) =
        [false, true, true] := by decide

/-- The last address with bit 55 clear, and the first with it set. -/
theorem witness_Bit55SelectsTheRange :
    twoVARanges (.el10 .nonSecure) = true ∧ twoVARanges .el3 = false ∧
      (0x007FFFFFFFFFFFFF : VA)[55] = false ∧ (0x0080000000000000 : VA)[55] = true := by decide

/-- Each translation system, in a regime with two ranges. -/
theorem witness_MinTnSZMatchesMaxVASize :
    let s : State :=
      { stage1State with
        cfg := { resetConfig with supportsVMSAv9_128 := true }
        regs := stage1State.regs.write (.d128 .tcr2EL1) 1 }
    systemOf stage1State (.one (.el10 .nonSecure)) = .vmsav8_64 ∧
      systemOf s (.one (.el10 .nonSecure)) = .vmsav9_128 ∧ twoVARanges (.el10 .nonSecure) = true := by
  decide

/-- The greatest and the least TnSZ used as they are, at each stage. -/
theorem witness_EffectiveTnSZWithinBounds :
    [minTnSZS1 stage1State (.el10 .nonSecure) .lower, minT0SZS2 stage2State .nonSecure] = [16, 24] ∧
      effectiveTnSZS1 stage1State (.el10 .nonSecure) .lower 39 = some 39 ∧
      effectiveTnSZS1 stage1State (.el10 .nonSecure) .lower 16 = some 16 ∧
      effectiveT0SZS2 stage2State .nonSecure 39 = some 39 ∧
      effectiveT0SZS2 stage2State .nonSecure 24 = some 24 := by decide

/-- One above the maximum, at each stage, with each choice of the implementation. -/
theorem witness_TnSZAboveMaximum :
    let s (x : TnSZTooLarge) : State := { stage2State with cfg := { fullConfig with tnszTooLarge := x } }
    ∀ st ∈ [Stage.one (.el10 .nonSecure), Stage.two .nonSecure], ∀ x ∈ [TnSZTooLarge.clampToMax, .fault],
      (s x).enabled.get st = true ∧
        granuleSupported (s x).cfg st.number (granuleOf (s x) st (stageRange st 0)) = true ∧
        maxTnSZ (s x).cfg (granuleOf (s x) st (stageRange st 0)) < 40 ∧ 40 < 64 ∧
        (s x).cfg.tnszTooLarge = x := by decide

/-- One below the minimum, with FEAT_LVA and without it, with each choice of the implementation. -/
theorem witness_Stage1TnSZBelowMinimum :
    let s (lva : Bool) (x : S1TnSZTooSmall) : State :=
      { stage1State with cfg := { resetConfig with featLVA := lva, s1TnszTooSmall := x } }
    ∀ lva ∈ [true, false], ∀ x ∈ [S1TnSZTooSmall.treatAs16, .fault],
      (s lva x).enabled.get (.one (.el10 .nonSecure)) = true ∧
        granuleSupported (s lva x).cfg .one
          (granuleOf (s lva x) (.one (.el10 .nonSecure)) (selectRange (.el10 .nonSecure) 0)) = true ∧
        15 < minTnSZS1 (s lva x) (.el10 .nonSecure) (selectRange (.el10 .nonSecure) 0) ∧
        (s lva x).cfg.featLVA = lva ∧ (s lva x).cfg.s1TnszTooSmall = x := by decide

/-- One below the minimum, with FEAT_LPA and without it, with each choice of the implementation. -/
theorem witness_Stage2T0SZBelowMinimum :
    let s (lpa : Bool) (x : S2T0SZTooSmall) : State :=
      { stage2State with cfg := { fullConfig with featLPA := lpa, s2T0szTooSmall := x } }
    ∀ lpa ∈ [true, false], ∀ x ∈ [S2T0SZTooSmall.treatAsMin, .fault],
      (s lpa x).enabled.get (.two .nonSecure) = true ∧
        granuleSupported (s lpa x).cfg .two (granuleOf (s lpa x) (.two .nonSecure) .single) = true ∧
        23 < minT0SZS2 (s lpa x) .nonSecure ∧
        (s lpa x).cfg.featLPA = lpa ∧ (s lpa x).cfg.s2T0szTooSmall = x := by decide

/-- A 56-bit implementation with a VMSAv8-64 stage 2, a 40-bit one, and one with EL1 in AArch32. -/
theorem witness_LargestIPASizeIsThePASize :
    let s : State := { State.reset with cfg := { fullConfig with paRange := 0b0111, featLPA := true } }
    let cfg : Config := { fullConfig with usesAArch64 := { fullConfig.usesAArch64 with el1 := false } }
    (s.cfg.wellFormed = true ∧ usesAArch64 s.cfg World.nonSecure.ss .el1 = true ∧
        paSize s.cfg = 56 ∧ systemOf s (.two .nonSecure) = .vmsav8_64) ∧
      (stage2State.cfg.wellFormed = true ∧
        usesAArch64 stage2State.cfg World.nonSecure.ss .el1 = true) ∧
      cfg.wellFormed = true ∧ usesAArch64 cfg World.nonSecure.ss .el1 = false := by decide

/-- Stage 1 at the last address that fits, stage 2 at any. -/
theorem witness_DisabledStageIsFlat :
    State.reset.enabled.get (.one (.el10 .nonSecure)) = false ∧
      2 ^ 48 - 1 < 2 ^ paSize State.reset.cfg ∧
      State.reset.enabled.get (.two .nonSecure) = false ∧
      (Stage.two .nonSecure).number ≠ .one := by decide

theorem witness_DisabledStage1AddressSizeFault :
    State.reset.enabled.get (.one (.el10 .nonSecure)) = false ∧
      2 ^ paSize State.reset.cfg ≤ 2 ^ 48 := by decide

/-- Stage 1 just above the lower range, stage 2 just above the IPA range. -/
theorem witness_AddressOutsideRangeFaults :
    let s := stage2State
    let st1 : Stage := .one (.el10 .nonSecure)
    let st2 : Stage := .two .nonSecure
    (s.enabled.get st1 = true ∧
        granuleSupported s.cfg st1.number (granuleOf s st1 (stageRange st1 (2 ^ 39))) = true ∧
        effectiveTnSZ s st1 (stageRange st1 (2 ^ 39)) none = some 25 ∧
        inRange (stageRange st1 (2 ^ 39)) (64 - 25) (2 ^ 39) = false) ∧
      s.enabled.get st2 = true ∧
      granuleSupported s.cfg st2.number (granuleOf s st2 (stageRange st2 (2 ^ 40))) = true ∧
      effectiveTnSZ s st2 (stageRange st2 (2 ^ 40)) (some .nonSecure) = some 24 ∧
      inRange (stageRange st2 (2 ^ 40)) (64 - 24) (2 ^ 40) = false := by decide

/-- The OA just above the implemented PA size, and the last one that fits; a fault of the walk. -/
theorem witness_OversizedOutputFaults :
    let s := stage2State
    let st : Stage := .one (.el10 .nonSecure)
    s.enabled.get st = true ∧
      granuleSupported s.cfg st.number (granuleOf s st (stageRange st 0xFFF)) = true ∧
      effectiveTnSZ s st (stageRange st 0xFFF) none = some 25 ∧
      inRange (stageRange st 0xFFF) (64 - 25) 0xFFF = true ∧
      (walk (walksTo 0x10000000 0) s s.ctx st (stageRange st 0) 0 none).result =
        .ok (2 ^ 40) .nonSecure 3 0 ∧
      (walk (walksTo 0xFFFFFFF 0) s s.ctx st (stageRange st 0xFFF) 0xFFF none).result =
        .ok (2 ^ 40 - 1) .nonSecure 3 0 ∧
      (walk { walksTo 0 0 with walkFault := fun _ => some { moreLookups := 0, kind := .translation } } s s.ctx st
        (stageRange st 0xFFF) 0xFFF none).result =
        .fault { stage := .one, level := 3, kind := .translation } := by decide

/-- A walk that succeeds, with a stage 2 after it and without one, and of stage 2; and one that faults. -/
theorem witness_WalkKeepsItsConstraints :
    let faults := { walksTo 0 0 with walkFault := fun _ => some { moreLookups := 0, kind := .translation } }
    stage2Of stage2State.cfg (.el10 .nonSecure) stage2State.ctx = some .nonSecure ∧
      stage2Of stage1State.cfg (.el10 .nonSecure) stage1State.ctx = none ∧
      (walk (walksTo 1 0) stage2State stage2State.ctx (.one (.el10 .nonSecure)) .lower 0xFFF none).result =
        .ok 0x1FFF .nonSecure 3 0 ∧
      (walk (walksTo 0 1) stage2State stage2State.ctx (.two .nonSecure) .single 0xFFF
        (some .nonSecure)).result = .ok 0x1FFF .nonSecure 3 0 ∧
      (walk faults stage1State stage1State.ctx (.one (.el10 .nonSecure)) .lower 0 none).result =
        .fault { stage := .one, level := 3, kind := .translation } := by decide

/-- The first and the last address of a page. -/
theorem witness_OnePageMapsToOnePage :
    let st : Stage := .one (.el10 .nonSecure)
    0 / 2 ^ pageBits (granuleOf stage1State st .lower) =
        0xFFF / 2 ^ pageBits (granuleOf stage1State st .lower) ∧
      (walk (walksTo 5 0) stage1State stage1State.ctx st .lower 0 none).result =
        .ok 0x5000 .nonSecure 3 0 ∧
      (walk (walksTo 5 0) stage1State stage1State.ctx st .lower 0xFFF none).result =
        .ok 0x5FFF .nonSecure 3 0 := by decide

/-- The last address that a VMSAv8-64 stage can give, and a VMSAv9-128 stage. -/
theorem witness_MaxOASizeLimitsTheWalk :
    let st : Stage := .one (.el10 .nonSecure)
    let s := { stage1State with regs := stage1State.regs.write (.ds .tcrEL1) 1 }
    let s9 : State :=
      { stage1State with
        cfg := { resetConfig with supportsVMSAv9_128 := true }
        regs := stage1State.regs.write (.d128 .tcr2EL1) 1 }
    systemOf s st = .vmsav8_64 ∧ systemOf s9 st = .vmsav9_128 ∧
      (walk (walksTo (2 ^ 40 - 1) 0) s s.ctx st .lower 0xFFF none).result =
        .ok (2 ^ 52 - 1) .nonSecure 3 0 := by decide

/-- A single stage; two stages of which both succeed; a fault and a refusal of each stage; a context that
nothing refuses, and one that is refused. -/
theorem witness_StagesCompose :
    let r : Regime := .el10 .nonSecure
    let small (st : Stage) : State :=
      { stage2State with granules := stage2State.granules.set st { lower := .g64KB, upper := .g64KB } }
    (regimeOf stage1State.ctx = some r ∧ translationRefusal stage1State stage1State.ctx r = none ∧
        translationRefusal { stage1State with cfg := { resetConfig with paRange := 0b1000 } }
          stage1State.ctx r = some .reservedPARange) ∧
    ((translateStage (walksTo 1 0) stage1State stage1State.ctx (.one r) 0 none).result =
        .ok 0x1000 .nonSecure (some 3) 0 ∧ stage2Of stage1State.cfg r stage1State.ctx = none) ∧
      ((translateStage (walksTo 1 2) stage2State stage2State.ctx (.one r) 0 none).result =
          .ok 0x1000 .nonSecure (some 3) 0 ∧
        stage2Of stage2State.cfg r stage2State.ctx = some .nonSecure ∧
        (translateStage (walksTo 1 2) stage2State stage2State.ctx (.two .nonSecure) 0x1000
          (some .nonSecure)).result = .ok 0x2000 .nonSecure (some 3) 0) ∧
      (translateStage (walksTo 1 (2 ^ 28)) stage2State stage2State.ctx (.two .nonSecure) 0x1000
        (some .nonSecure)).result = .fault { stage := .two, level := 3, kind := .addressSize } ∧
      (translateStage (walksTo 1 2) stage2State stage2State.ctx (.one r) (2 ^ 39) none).result =
        .fault { stage := .one, level := 0, kind := .translation } ∧
      (translateStage (walksTo 1 2) (small (.one r)) stage2State.ctx (.one r) 0 none).result =
        .refused .granuleNotSupported ∧
      (translateStage (walksTo 1 2) (small (.two .nonSecure)) stage2State.ctx (.one r) 0 none).result =
        .ok 0x1000 .nonSecure (some 3) 0 ∧
      (translateStage (walksTo 1 2) (small (.two .nonSecure)) stage2State.ctx (.two .nonSecure) 0x1000
        (some .nonSecure)).result = .refused .granuleNotSupported := by decide

theorem witness_TranslationFitsThePASize :
    ∃ pa space info,
      (translate (walksTo 0x80400 0xC0400) stage2State stage2State.ctx 0x400000).result =
        .ok pa space info := ⟨_, _, _, test_two_stages⟩

/-- A result in the Secure space from Secure state, in the Realm space from Realm state, in the Root space
from EL3 in Root state. -/
theorem witness_TranslationStaysInPermittedSpaces :
    let o (p : PASpace) : OpenParameters :=
      { walksTo 0 0 with flatSpace := fun _ _ _ => p, flatInfo := fun _ _ _ => 0 }
    let s (ss : SecurityState) (el : EL) (nse ns : Nat) : State :=
      { State.reset with
        cfg := { fullConfig with featRME := true }, ss := ss, el := el
        regs := (resetRegs.write .nse nse).write .ns ns }
    let r (p : PASpace) (s : State) : Translation := (translate (o p) s s.ctx 0x1000).result
    r .secure (s .secure .el1 0 0) = .ok 0x1000 .secure 0 ∧
      r .realm (s .realm .el1 1 1) = .ok 0x1000 .realm 0 ∧
      r .root (s .root .el3 1 0) = .ok 0x1000 .root 0 := by decide

/-- A fault of stage 2, and one of a disabled stage 1. -/
theorem witness_FaultsBelongToTheirStage :
    (translateIn (walksTo 0x100000 0)
        { stage2State with regs := stage2State.regs.write (.t0sz .vtcrEL2) 32 } stage2State.ctx
        (.el10 .nonSecure) 0x400000).result =
        .fault { stage := .two, level := 0, kind := .translation } ∧
      (translateIn (walksTo 0 0) .reset State.reset.ctx (.el10 .nonSecure) (2 ^ 48)).result =
        .fault { stage := .one, level := 0, kind := .addressSize } ∧
      State.reset.enabled.get (.one (.el10 .nonSecure)) = false := by decide

/-- An enabled stage that translates, that faults, and in a configuration that is refused; one stage, and two
stages, all disabled. -/
theorem witness_AccessShowsItsTranslation :
    let s : State := { State.reset with cfg := fullConfig, regs := resetRegs.write .ns 1 }
    let bad : State := { State.reset with cfg := { resetConfig with paRange := 0b1000 } }
    ((translate (walksTo 5 0) stage1State stage1State.ctx 0xFFF).result = .ok 0x5FFF .nonSecure 0 ∧
        (translate (walksTo 5 0) stage1State stage1State.ctx 0x8000000000).result =
          .fault { stage := .one, level := 0, kind := .translation } ∧
        (translate (walksTo 5 0) bad bad.ctx 0).result = .refused .reservedPARange) ∧
    (regimeOf State.reset.ctx = some (.el10 .nonSecure) ∧
        translationRefusal .reset State.reset.ctx (.el10 .nonSecure) = none ∧
        State.reset.enabled.get (.one (.el10 .nonSecure)) = false ∧
        accessAddress State.reset.cfg State.reset.ctx 0xFFFFFFFFFFFF < 2 ^ paSize State.reset.cfg) ∧
      regimeOf s.ctx = some (.el10 .nonSecure) ∧ translationRefusal s s.ctx (.el10 .nonSecure) = none ∧
      s.enabled.get (.one (.el10 .nonSecure)) = false ∧
      stage2Of s.cfg (.el10 .nonSecure) s.ctx = some .nonSecure ∧
      s.enabled.get (.two .nonSecure) = false ∧
      accessAddress s.cfg s.ctx 0xFFFFFFFFFF < 2 ^ paSize s.cfg := by decide

/-- Each range, with an address of the other one. -/
theorem witness_VARangesAreIndependent :
    twoVARanges (.el10 .nonSecure) = true ∧
      selectRange (.el10 .nonSecure) 0xFF7FFFFFFFFFFFFF ≠ .upper ∧
      selectRange (.el10 .nonSecure) 0x0080000000000000 ≠ .lower := by decide

/-- Program 2, step 5: TCR_EL1 and VTCR_EL2 set at EL2; HCR_EL2.TGE at EL2 in an EL2 regime; TCR_EL2 and
HCR_EL2.E2H at EL3. -/
theorem witness_OutOfContextFieldsDoNotMatter :
    regimeOf (walkingState .el2).ctx = some (.el2 .nonSecure) ∧
      regimeOf (walkingState .el3).ctx = some .el3 ∧
      (∀ f ∈ [SysField.t0sz .tcrEL1, .t0sz .vtcrEL2, .tge],
        f.reg.lowestEL.num ≤ (walkingState .el2).el.num ∧ f ≠ .e2h ∧
          f.reg ∉ controllingRegisters (.one (.el2 .nonSecure))) ∧
      ∀ f ∈ [SysField.t0sz .tcrEL2, .e2h],
        f.reg.lowestEL.num ≤ (walkingState .el3).el.num ∧
          f.reg ∉ controllingRegisters (.one .el3) := by decide

end Sys2Proof.Tests
end

section
/-! SUPPORT. The configuration of the implementation is fixed (R6): what each shared update, each instruction and
each operation does to it, and from these the step. -/

namespace Sys2Proof.Machine

@[simp] theorem State.afterFetch_cfg (s : State) (reads : List TableRead) :
    (s.afterFetch reads).cfg = s.cfg := rfl

@[simp] theorem State.writeAddr_cfg (s : State) (r : AddrReg) (va : VA) :
    (s.writeAddr r va).cfg = s.cfg := by cases r <;> rfl

@[simp] theorem State.beginWalk_cfg (o : OpenParameters) (s : State) (r : Regime) (va : VA) :
    (s.beginWalk o r va).cfg = s.cfg := by rw [beginWalk_eq]

@[simp] theorem State.performWalkAccess_cfg (s : State) (n : Nat) :
    (s.performWalkAccess n).cfg = s.cfg := by rw [performWalkAccess_eq]

@[simp] theorem State.beginSpuWalk_cfg (o : OpenParameters) (s : State) (r : Regime) (va : VA) :
    (s.beginSpuWalk o r va).cfg = s.cfg := by rw [beginSpuWalk_eq]

@[simp] theorem State.performSpuAccess_cfg (s : State) (n : Nat) :
    (s.performSpuAccess n).cfg = s.cfg := by rw [performSpuAccess_eq]

/-- Neither instruction changes the configuration. -/
theorem exec_cfg {i : Instr} {s t : State} (h : exec i s = .next t) : t.cfg = s.cfg := by
  obtain ⟨_, -, rfl⟩ | ⟨-, rfl⟩ := exec_next h
  · simp
  · split <;> simp

/-- The PE's turn does not change the configuration: its fetch leaves it, and so does what it executes. -/
theorem instructionTurn_cfg {s t : State} (h : instructionTurn s = .next t) : t.cfg = s.cfg := by
  obtain ⟨i, u, hfetch, hexec⟩ := instructionTurn_next h
  obtain ⟨rfl, -, -⟩ := fetch_ok hfetch
  exact (exec_cfg hexec).trans (State.afterFetch_cfg s _)

/-- No access changes the configuration, whether it translates or faults. -/
theorem opAccess_cfg {o : OpenParameters} {va : VA} {s t : State} (h : opAccess o va s = .next t) :
    t.cfg = s.cfg := by
  obtain ⟨r, rfl, -⟩ := opAccess_next h
  simp

/-- No operation changes the configuration, whatever the open parameters answer. -/
theorem perform_cfg {o : OpenParameters} {op : Operation} {s t : State}
    (h : perform o op s = .next t) : t.cfg = s.cfg := by
  cases op with
  | access va => exact opAccess_cfg h
  | accessVia r => exact opAccess_cfg h
  | unitAccess u va => cases h
  | setAddr r va => cases h; simp
  | setField f v => obtain ⟨-, -, rfl⟩ := opSetField_next h; rfl
  | readField f => obtain ⟨-, rfl⟩ := opReadField_next h; rfl
  | readId f => obtain rfl := opReadId_next h; rfl
  | setGranule st range g => obtain ⟨-, rfl⟩ := opSetGranule_next h; rfl
  | setEnabled st b => obtain ⟨-, rfl⟩ := opSetEnabled_next h; rfl
  | exceptionTo el => obtain ⟨-, -, rfl⟩ := opExceptionTo_next h; simp
  | exceptionReturn el => obtain ⟨-, -, rfl⟩ := opExceptionReturn_next h; simp
  | setSecurityState ss => cases h; rfl
  | memWrite space pa b => obtain ⟨-, rfl⟩ := opMemWrite_next h; rfl
  | walkerBegin r va => cases h; simp
  | walkerPerform n => cases h; simp
  | spuSetInUse el b => cases h; rfl
  | spuBegin r va => cases h; simp
  | spuPerform n => cases h; simp

/-- Settles O6: a step is the PE's turn or one operation, from a state that differs at most in its schedule, and
neither changes the configuration. -/
theorem stepKeepsConfiguration : Obligations.StepKeepsConfiguration := by
  unfold Obligations.StepKeepsConfiguration
  intro s t h
  obtain ⟨-, ⟨u, hu, hturn⟩ | ⟨op, rest, -, hop⟩⟩ := step_next h
  · calc
      t.cfg = u.cfg := instructionTurn_cfg hturn
      _ = s.cfg := by rw [hu]
  · calc
      t.cfg = { s with pending := rest }.cfg := perform_cfg hop
      _ = s.cfg := rfl

end Sys2Proof.Machine
end

section
/-! SUPPORT. The registers that hold addresses (R24, R25, R74): the frame of placing an address in one. -/

namespace Sys2Proof.Machine

/-- Placing an address leaves everything but the four kinds of address register. -/
theorem State.writeAddr_eq (s : State) (r : AddrReg) (va : VA) :
    s.writeAddr r va =
      { s with
        pc := (s.writeAddr r va).pc
        sp := (s.writeAddr r va).sp
        lr := (s.writeAddr r va).lr
        elr := (s.writeAddr r va).elr } := by
  cases r <;> rfl

/-- Settles O26: the operation is the state's write of an address register, which reads back and leaves the other
registers; an access through a register is by definition one at the address it holds. -/
theorem addressRegistersHoldVirtualAddresses : Obligations.AddressRegistersHoldVirtualAddresses := by
  unfold Obligations.AddressRegistersHoldVirtualAddresses
  intro o s r va
  have hset : perform o (.setAddr r va) s = .next (s.writeAddr r va) := rfl
  have hvia : perform o (.accessVia r) s = perform o (.access (s.readAddr r)) s := rfl
  exact ⟨⟨_, hset, s.readAddr_writeAddr_same r va, fun _ hne => s.readAddr_writeAddr_ne va hne,
    s.writeAddr_eq r va⟩, hvia⟩

end Sys2Proof.Machine
end

section
/-! SUPPORT. Tables D8-3 and D8-4 (R27, R46, R47, R350): the rows that several Security states or IPA spaces
share. -/

namespace Sys2Proof

/-- The Non-secure and the Realm rows of Table D8-3 list the same registers: neither has SCR_EL3 nor a VSTCR_EL2
of its own. -/
theorem controllingRegisters_of_ne_secure {w : World} (hw : w = .nonSecure ∨ w = .realm) :
    controllingRegisters (.one (.el2 w)) = el2StageRegisters ∧
      controllingRegisters (.one (.el20 w)) = el2StageRegisters ++ [.ttbr1EL2, .hcrEL2] ∧
      controllingRegisters (.two w) = [.sctlrEL2, .sctlr2EL2, .vtcrEL2, .vttbrEL2, .hcrEL2] ∧
      controllingRegisters (.one (.el10 w)) = el1StageRegisters := by
  rcases hw with rfl | rfl <;> exact ⟨rfl, rfl, rfl, rfl⟩

theorem t0szFieldS2_of_ne_secure {space : PASpace} (h : space ≠ .secure) :
    t0szFieldS2 space = .t0sz .vtcrEL2 := by
  cases space with
  | secure => exact absurd rfl h
  | nonSecure | realm | root => rfl

theorem tableBaseS2_of_ne_secure {space : PASpace} (h : space ≠ .secure) :
    tableBaseS2 space = .vttbrEL2 := by
  cases space with
  | secure => exact absurd rfl h
  | nonSecure | realm | root => rfl

/-- Settles O21: each row is the table's own entry; only the rows that the Non-secure and Realm states share, and
the registers of an IPA space that is not Secure, need a case split. -/
theorem registersOfEachStage : Obligations.RegistersOfEachStage := by
  unfold Obligations.RegistersOfEachStage
  refine ⟨fun w hw => controllingRegisters_of_ne_secure hw, rfl, rfl, rfl, rfl, rfl, ?commonRegisters,
    ?stageOneFields, rfl, rfl, rfl, rfl, ?nonSecureIPA, ?controlledFrom, ?tnszStageOne, ?tnszStageTwo⟩
  case commonRegisters => rfl
  case stageOneFields => exact fun w => ⟨rfl, rfl, rfl, rfl, rfl, rfl, rfl, rfl, rfl, rfl, rfl, rfl⟩
  case nonSecureIPA => exact fun space h => ⟨t0szFieldS2_of_ne_secure h, tableBaseS2_of_ne_secure h⟩
  case controlledFrom => exact fun w => ⟨rfl, rfl⟩
  case tnszStageOne => exact fun r range inSpace => rfl
  case tnszStageTwo => exact fun w range space => rfl

end Sys2Proof
end

section
/-! SUPPORT. Who may access a System register (R26, R48): the suffix of a register's name as a bound on the
Exception level, and the operations on fields completing exactly within it. -/

namespace Sys2Proof

theorem SysReg.accessibleFrom_iff (r : SysReg) (el : EL) :
    r.accessibleFrom el = true ↔ r.lowestEL.num ≤ el.num := by
  simp [SysReg.accessibleFrom]

theorem idAccessibleFrom_iff (el : EL) : idAccessibleFrom el = true ↔ el ≠ .el0 := by
  cases el <;> decide

theorem SysReg.lowestEL_eq_el1_iff (r : SysReg) :
    r.lowestEL = .el1 ↔ r ∈ [.sctlrEL1, .sctlr2EL1, .tcrEL1, .tcr2EL1, .mairEL1, .mair2EL1, .amairEL1,
      .amair2EL1, .ttbr0EL1, .ttbr1EL1] := by
  cases r <;> decide

theorem SysReg.lowestEL_eq_el2_iff (r : SysReg) :
    r.lowestEL = .el2 ↔ r ∈ [.sctlrEL2, .sctlr2EL2, .tcrEL2, .tcr2EL2, .mairEL2, .mair2EL2, .amairEL2,
      .amair2EL2, .ttbr0EL2, .ttbr1EL2, .vtcrEL2, .vttbrEL2, .vstcrEL2, .vsttbrEL2, .hcrEL2] := by
  cases r <;> decide

theorem SysReg.lowestEL_eq_el3_iff (r : SysReg) :
    r.lowestEL = .el3 ↔ r ∈ [.sctlrEL3, .sctlr2EL3, .tcrEL3, .mairEL3, .mair2EL3, .amairEL3, .amair2EL3,
      .ttbr0EL3, .scrEL3] := by
  cases r <;> decide

/-- No System register has the suffix 0. -/
theorem SysReg.lowestEL_num_pos (r : SysReg) : 0 < r.lowestEL.num := by
  cases r <;> decide

namespace Machine

/-- Where the register is accessible and the value fits, setting a field is the write of that field. -/
theorem opSetField_of_accessible {f : SysField} {v : Nat} {s : State}
    (hel : f.reg.accessibleFrom s.el = true) (hv : f.fits v = true) :
    opSetField f v s = .next { s with regs := s.regs.write f v } := by
  simp [opSetField, hel, hv]

/-- Where the register is accessible, reading a field shows what it holds. -/
theorem opReadField_of_accessible {f : SysField} {s : State} (hel : f.reg.accessibleFrom s.el = true) :
    opReadField f s = .next { s with observations := s.observations ++ [.field f (s.regs.read f)] } := by
  simp [opReadField, hel]

/-- From EL1 and above, reading an identification field shows its value. -/
theorem opReadId_of_accessible {o : OpenParameters} {f : IdField} {s : State}
    (hel : idAccessibleFrom s.el = true) :
    opReadId o f s = .next { s with observations := s.observations ++ [.idField f (idValue o s.cfg f)] } := by
  simp [opReadId, hel]

theorem opReadId_refused {o : OpenParameters} {f : IdField} {s : State}
    (hel : idAccessibleFrom s.el = false) : opReadId o f s = .refused .registerNotAccessible := by
  simp [opReadId, hel]

theorem opSetField_completes_iff {f : SysField} {v : Nat} {s : State} (hv : f.fits v = true) :
    (∃ t, opSetField f v s = .next t) ↔ f.reg.lowestEL.num ≤ s.el.num := by
  rw [← SysReg.accessibleFrom_iff]
  constructor
  · rintro ⟨t, h⟩
    exact (opSetField_next h).1
  · exact fun hel => ⟨_, opSetField_of_accessible hel hv⟩

theorem opReadField_completes_iff {f : SysField} {s : State} :
    (∃ t, opReadField f s = .next t) ↔ f.reg.lowestEL.num ≤ s.el.num := by
  rw [← SysReg.accessibleFrom_iff]
  constructor
  · rintro ⟨t, h⟩
    exact (opReadField_next h).1
  · exact fun hel => ⟨_, opReadField_of_accessible hel⟩

theorem opReadId_completes_iff {o : OpenParameters} {f : IdField} {s : State} :
    (∃ t, opReadId o f s = .next t) ↔ s.el ≠ .el0 := by
  rw [← idAccessibleFrom_iff]
  cases hel : idAccessibleFrom s.el with
  | false => simp [opReadId_refused hel]
  | true => simp [opReadId_of_accessible hel]

/-- Settles O18: each of the three operations completes exactly where its check of the Exception level passes, and
the suffixes are read off the list of registers. -/
theorem registerAccessFollowsTheSuffix : Obligations.RegisterAccessFollowsTheSuffix := by
  unfold Obligations.RegisterAccessFollowsTheSuffix
  intro o s f v i hv
  exact ⟨opSetField_completes_iff hv, opReadField_completes_iff, opReadId_completes_iff, rfl,
    fun r => ⟨r.lowestEL_eq_el1_iff, r.lowestEL_eq_el2_iff, r.lowestEL_eq_el3_iff⟩⟩

end Machine

end Sys2Proof
end

section
/-! SUPPORT. What controls translation (R26, R27, R392): the System registers, the enables and the granules of the
stages, which each shared update leaves alone, and which EL0 can reach by no operation. -/

namespace Sys2Proof

/-- No stage is controlled from EL0 (Table D8-3). -/
theorem controlledFromEL_num_pos (st : Stage) : 0 < (controlledFromEL st).num := by
  rcases st with (_ | _ | _ | _) | _ <;> simp [controlledFromEL, EL.num]

namespace Machine

/-- Everything that software controls translation by. -/
def State.translationControl (s : State) : SysRegs × PerStage Bool × PerStage RangeGranules :=
  (s.regs, s.enabled, s.granules)

theorem State.translationControl_eq_iff {s t : State} :
    t.translationControl = s.translationControl ↔
      t.regs = s.regs ∧ t.enabled = s.enabled ∧ t.granules = s.granules := by
  simp [State.translationControl]

section Updates
variable (s : State) (o : OpenParameters) (r : Regime) (va : VA) (el : EL) (n : Nat)

@[simp] theorem State.advancePc_translationControl :
    s.advancePc.translationControl = s.translationControl := rfl

@[simp] theorem State.completeWalks_translationControl :
    s.completeWalks.translationControl = s.translationControl := rfl

@[simp] theorem State.markSpuWalks_translationControl :
    s.markSpuWalks.translationControl = s.translationControl := rfl

@[simp] theorem State.afterFetch_translationControl (reads : List TableRead) :
    (s.afterFetch reads).translationControl = s.translationControl := rfl

@[simp] theorem State.recordAccess_translationControl (res : AccessResult) (reads : List TableRead) :
    (s.recordAccess va res reads).translationControl = s.translationControl := rfl

@[simp] theorem State.takeException_translationControl :
    (s.takeException el).translationControl = s.translationControl := rfl

@[simp] theorem State.returnFromException_translationControl :
    (s.returnFromException el).translationControl = s.translationControl := rfl

@[simp] theorem State.writeAddr_translationControl (a : AddrReg) :
    (s.writeAddr a va).translationControl = s.translationControl := by
  rw [State.writeAddr_eq]; rfl

@[simp] theorem State.beginWalk_translationControl :
    (s.beginWalk o r va).translationControl = s.translationControl := by
  rw [beginWalk_eq]; rfl

@[simp] theorem State.performWalkAccess_translationControl :
    (s.performWalkAccess n).translationControl = s.translationControl := by
  rw [performWalkAccess_eq]; rfl

@[simp] theorem State.beginSpuWalk_translationControl :
    (s.beginSpuWalk o r va).translationControl = s.translationControl := by
  rw [beginSpuWalk_eq]; rfl

@[simp] theorem State.performSpuAccess_translationControl :
    (s.performSpuAccess n).translationControl = s.translationControl := by
  rw [performSpuAccess_eq]; rfl

end Updates

/-- Software at EL0 controls no stage. -/
theorem State.controls_el0 {s : State} (hel : s.el = .el0) (st : Stage) : s.controls st = false := by
  have hlevel : ¬ (controlledFromEL st).num ≤ EL.el0.num := Nat.not_le.mpr (controlledFromEL_num_pos st)
  simp [State.controls, hel, hlevel]

/-- No System register is accessible from EL0. -/
theorem accessibleFrom_el0 (r : SysReg) : r.accessibleFrom .el0 = false :=
  decide_eq_false (Nat.not_le.mpr r.lowestEL_num_pos)

/-- Neither instruction changes what controls translation, at whatever level. -/
theorem exec_translationControl {i : Instr} {s t : State} (h : exec i s = .next t) :
    t.translationControl = s.translationControl := by
  obtain ⟨_, -, rfl⟩ | ⟨-, rfl⟩ := exec_next h
  · simp
  · split <;> simp

/-- The PE's turn does not change what controls translation. -/
theorem instructionTurn_translationControl {s t : State} (h : instructionTurn s = .next t) :
    t.translationControl = s.translationControl := by
  obtain ⟨i, u, hfetch, hexec⟩ := instructionTurn_next h
  obtain ⟨rfl, -, -⟩ := fetch_ok hfetch
  exact (exec_translationControl hexec).trans (State.afterFetch_translationControl s _)

/-- No access changes what controls translation. -/
theorem opAccess_translationControl {o : OpenParameters} {va : VA} {s t : State}
    (h : opAccess o va s = .next t) : t.translationControl = s.translationControl := by
  obtain ⟨r, rfl, -⟩ := opAccess_next h
  simp

/-- At EL0 the three operations that change what controls translation are refused, and the others leave it. -/
theorem perform_el0_translationControl {o : OpenParameters} {op : Operation} {s t : State}
    (hel : s.el = .el0) (h : perform o op s = .next t) :
    t.translationControl = s.translationControl := by
  cases op with
  | setField f v =>
    obtain ⟨hacc, -, -⟩ := opSetField_next h
    rw [hel, accessibleFrom_el0] at hacc
    cases hacc
  | setGranule st range g =>
    obtain ⟨hctl, -⟩ := opSetGranule_next h
    rw [State.controls_el0 hel st] at hctl
    cases hctl
  | setEnabled st b =>
    obtain ⟨hctl, -⟩ := opSetEnabled_next h
    rw [State.controls_el0 hel st] at hctl
    cases hctl
  | access va => exact opAccess_translationControl h
  | accessVia r => exact opAccess_translationControl h
  | unitAccess u va => cases h
  | setAddr r va => cases h; simp
  | readField f => obtain ⟨-, rfl⟩ := opReadField_next h; rfl
  | readId f => obtain rfl := opReadId_next h; rfl
  | exceptionTo el => obtain ⟨-, -, rfl⟩ := opExceptionTo_next h; simp
  | exceptionReturn el => obtain ⟨-, -, rfl⟩ := opExceptionReturn_next h; simp
  | setSecurityState ss => cases h; rfl
  | memWrite space pa b => obtain ⟨-, rfl⟩ := opMemWrite_next h; rfl
  | walkerBegin r va => cases h; simp
  | walkerPerform n => cases h; simp
  | spuSetInUse el b => cases h; rfl
  | spuBegin r va => cases h; simp
  | spuPerform n => cases h; simp

/-- Settles O22: the PE's turn leaves what controls translation at every level, and an operation leaves it at EL0,
where every register and every stage is out of reach. -/
theorem el0ChangesNoTranslationControl : Obligations.EL0ChangesNoTranslationControl := by
  unfold Obligations.EL0ChangesNoTranslationControl
  intro s t hel h
  rw [← State.translationControl_eq_iff]
  obtain ⟨-, ⟨u, hu, hturn⟩ | ⟨op, rest, -, hop⟩⟩ := step_next h
  · calc
      t.translationControl = u.translationControl := instructionTurn_translationControl hturn
      _ = s.translationControl := by rw [hu]; rfl
  · calc
      t.translationControl = State.translationControl { s with pending := rest } :=
        perform_el0_translationControl (s := { s with pending := rest }) hel hop
      _ = s.translationControl := rfl

end Machine

end Sys2Proof
end

section
/-! SUPPORT. The PE's turn: what a fetch comes to on each of its paths (log entries 3, 16, 26, 36), which turns of the
schedule are the PE's, and which bytes are read. -/

namespace Sys2Proof.Machine

/-! ### Reading the bytes -/

/-- Bytes are read at some places exactly when each place holds its byte. -/
theorem readPlaces_eq_ok_iff (m : Memory) (places : List (PASpace × Nat)) (bytes : List Byte) :
    readPlaces m places = .ok bytes ↔ places.map (fun p => m.read p.1 p.2) = bytes.map some := by
  induction places generalizing bytes with
  | nil => cases bytes <;> simp [readPlaces]
  | cons p places ih =>
    obtain ⟨space, pa⟩ := p
    cases hp : m.read space pa with
    | none => cases bytes <;> simp [readPlaces, hp]
    | some b =>
      cases bytes with
      | nil => cases hr : readPlaces m places <;> simp [readPlaces, hp, hr]
      | cons c bytes => cases hr : readPlaces m places <;> simp [readPlaces, hp, hr, ← ih]

/-- The place that reading the bytes reports is one of them, and nothing has written it. -/
theorem readPlaces_error {m : Memory} {places : List (PASpace × Nat)} {p : PASpace × Nat}
    (h : readPlaces m places = .error p) : p ∈ places ∧ m.read p.1 p.2 = none := by
  induction places with
  | nil => cases h
  | cons q places ih =>
    obtain ⟨space, pa⟩ := q
    unfold readPlaces at h
    split at h
    · next hq => cases h; exact ⟨List.mem_cons_self, hq⟩
    · split at h
      · cases h
      · next p' hr =>
        cases h
        obtain ⟨hmem, hnone⟩ := ih hr
        exact ⟨List.mem_cons_of_mem _ hmem, hnone⟩

/-! ### The paths of a fetch -/

theorem fetch_aarch32 (o : OpenParameters) {s : State} (ha : usesAArch64 s.cfg s.ss s.el = false) :
    fetch o s = .refused .aarch32Instruction := by
  simp [fetch, ha]

section AArch64
variable {o : OpenParameters} {s : State} (ha : usesAArch64 s.cfg s.ss s.el = true)
include ha

theorem fetch_fault {f : MMUFault} (hp : (fetchPlaces o s).places = .fault f) :
    fetch o s = .fault (.mmu f) := by
  simp [fetch, ha, hp]

theorem fetch_refused {r : Refusal} (hp : (fetchPlaces o s).places = .refused r) :
    fetch o s = .refused r := by
  simp [fetch, ha, hp]

variable {places : List (PASpace × Nat)} (hp : (fetchPlaces o s).places = .ok places)
include hp

theorem fetch_unwritten {space : PASpace} {pa : Nat}
    (hr : readPlaces s.mem places = .error (space, pa)) :
    fetch o s = .fault (.unwrittenMemory space pa) := by
  simp [fetch, ha, hp, hr]

variable {bytes : List Byte} (hr : readPlaces s.mem places = .ok bytes)
include hr

theorem fetch_notInSpec {e : DecodeError} (hd : decode bytes = .error e) :
    fetch o s = .refused .encodingNotInSpec := by
  simp [fetch, ha, hp, hr, hd]

theorem fetch_decoded {i : Instr} {rest : List Byte} (hd : decode bytes = .ok (i, rest)) :
    fetch o s = .ok i (s.afterFetch (fetchPlaces o s).reads) := by
  simp [fetch, ha, hp, hr, hd]

end AArch64

/-! ### The PE's turn -/

theorem instructionTurn_of_ok {s u : State} {i : Instr} (h : fetch Config.openParameters s = .ok i u) :
    instructionTurn s = exec i u := by
  simp [instructionTurn, h]

theorem instructionTurn_of_fault {s : State} {f : Fault} (h : fetch Config.openParameters s = .fault f) :
    instructionTurn s = .fault f := by
  simp [instructionTurn, h]

theorem instructionTurn_of_refused {s : State} {r : Refusal}
    (h : fetch Config.openParameters s = .refused r) : instructionTurn s = .refused r := by
  simp [instructionTurn, h]

/-- The turn is the PE's, and the PE takes it in the state `u`: the schedule is empty, or it begins with a turn of
the PE, which leaves it. -/
def PETurnIn (s u : State) : Prop :=
  (s.pending = [] ∧ u = s) ∨ ∃ turns, s.pending = .instruction :: turns ∧ u = { s with pending := turns }

theorem PETurnIn.eq {s u : State} (h : PETurnIn s u) : u = { s with pending := u.pending } := by
  obtain ⟨-, rfl⟩ | ⟨turns, -, rfl⟩ := h <;> rfl

theorem PETurnIn.turn_eq {s u : State} (h : PETurnIn s u) : turn s = instructionTurn u := by
  obtain ⟨hp, rfl⟩ | ⟨turns, hp, rfl⟩ := h <;> simp [turn, hp]

/-- In an implementation of the architecture the step is the PE's turn. -/
theorem PETurnIn.step_eq {s u : State} (h : PETurnIn s u) (hc : configRefusal s.cfg = none) :
    step s = instructionTurn u :=
  (step_of_configRefusal hc).trans h.turn_eq

theorem configRefusal_of_wellFormed {cfg : Config} (h : cfg.wellFormed = true) :
    configRefusal cfg = none := by
  simpa [Config.wellFormed] using h

/-- Settles O4: the step is the PE's turn, and the turn is read off the path that its fetch takes. A fetch that
reaches places does so only in an implementation, so that the last clauses need no hypothesis on the
configuration. -/
theorem stepRunsDecodedInstruction : Obligations.StepRunsDecodedInstruction := by
  unfold Obligations.StepRunsDecodedInstruction
  refine ⟨fun s u (hu : PETurnIn s u) => ?_,
    fun m places => ⟨readPlaces_eq_ok_iff m places, fun p => readPlaces_error⟩⟩
  have hcfg : u.cfg = s.cfg := by rw [hu.eq]
  have hmem : u.mem = s.mem := by rw [hu.eq]
  have hstate : usesAArch64 s.cfg s.ss s.el = usesAArch64 u.cfg u.ss u.el := by rw [hu.eq]
  rw [hstate, ← hmem]
  have hstep (hw : s.cfg.wellFormed = true) : step s = instructionTurn u :=
    hu.step_eq (configRefusal_of_wellFormed hw)
  refine ⟨fun hw ha => ?aarch32, fun ha => ⟨fun hw => ⟨fun f hf => ?fault, fun x hx => ?refused⟩,
    fun places hp => ?reached⟩⟩
  case aarch32 => rw [hstep hw, instructionTurn_of_refused (fetch_aarch32 _ ha)]
  case fault => rw [hstep hw, instructionTurn_of_fault (fetch_fault ha hf)]
  case refused => rw [hstep hw, instructionTurn_of_refused (fetch_refused ha hx)]
  case reached =>
    rw [hu.step_eq (hcfg ▸ fetchPlaces_ok hp)]
    refine ⟨fun space pa hr => ?unwritten, fun bytes hr =>
      ⟨fun e hd => ?notInSpec, fun i rest _ hd => ?decoded⟩⟩
    case unwritten => exact instructionTurn_of_fault (fetch_unwritten ha hp hr)
    case notInSpec => exact instructionTurn_of_refused (fetch_notInSpec ha hp hr hd)
    case decoded => exact instructionTurn_of_ok (fetch_decoded ha hp hr hd)

end Sys2Proof.Machine
end

section
/-! SUPPORT. The constraints on a walk (R84, R85, R147, R163, R172, R186, R188): the space a stage may output to, the
last read, and what a walk that succeeds or faults is, each from the account of what a walk can come to. -/

namespace Sys2Proof

theorem permittedIPASpace_nonSecure_iff (p : PASpace) :
    permittedIPASpace .nonSecure p = true ↔ p = .nonSecure := decide_eq_true_iff

theorem permittedIPASpace_secure_iff (p : PASpace) :
    permittedIPASpace .secure p = true ↔ p = .secure ∨ p = .nonSecure := by
  simp [permittedIPASpace, or_comm]

theorem permittedIPASpace_realm_iff (p : PASpace) :
    permittedIPASpace .realm p = true ↔ p = .realm := decide_eq_true_iff

theorem constrainSpace_one_of_some {cfg : Config} {c : Context} {r : Regime} {w : World}
    (h : stage2Of cfg r c = some w) (p : PASpace) :
    constrainSpace cfg c (.one r) p = constrainIPASpace w p := by
  simp [constrainSpace, h]

theorem constrainSpace_one_of_none {cfg : Config} {c : Context} {r : Regime}
    (h : stage2Of cfg r c = none) (p : PASpace) :
    constrainSpace cfg c (.one r) p = constrainPASpace c.ss p := by
  simp [constrainSpace, h]

/-- A constrained space is one the stage may output to: an IPA space of the regime for a stage 1 with a stage 2
after it, else a PA space of Table D8-1. -/
theorem constrainSpace_permitted (cfg : Config) (c : Context) (st : Stage) (p : PASpace) :
    (∀ r, st = .one r → ∀ w, stage2Of cfg r c = some w →
        permittedIPASpace w (constrainSpace cfg c st p) = true) ∧
      (∀ r, st = .one r → stage2Of cfg r c = none →
        permittedPASpace c.ss (constrainSpace cfg c st p) = true) ∧
      ∀ w, st = .two w → permittedPASpace c.ss (constrainSpace cfg c st p) = true := by
  refine ⟨?beforeStage2, ?onlyStage, ?stage2⟩
  case beforeStage2 =>
    rintro r rfl w h
    rw [constrainSpace_one_of_some h]
    exact permittedIPASpace_constrain w p
  case onlyStage =>
    rintro r rfl h
    rw [constrainSpace_one_of_none h]
    exact permittedPASpace_constrain c.ss p
  case stage2 =>
    rintro w rfl
    exact permittedPASpace_constrain c.ss p

namespace Machine

/-- A walk reads at least one entry, and the last one at its last level. -/
theorem tableReads_eq_append_last (o : OpenParameters) (inp : WalkInput) (start : Int) (more : Nat) :
    ∃ before last, tableReads o inp start more = before ++ [last] ∧ last.level = start + (more : Int) := by
  unfold tableReads
  rw [List.range_succ, List.map_append]
  exact ⟨_, _, rfl, rfl⟩

theorem walk_ok {o : OpenParameters} {s : State} {c : Context} {st : Stage} {range : VARange} {ia : Nat}
    {inSpace : Option PASpace} {oa : Nat} {space : PASpace} {level : Int} {info : Info}
    (h : (walk o s c st range ia inSpace).result = .ok oa space level info) :
    -2 ≤ level ∧ level ≤ 3 ∧
      (∃ page, oa = constrainOA (granuleOf s st range) (maxOASize s st range) page ia) ∧
      ∃ p, space = constrainSpace s.cfg c st p := by
  obtain ⟨-, start, more, hstart, hlast, -, -, -, -, ⟨_, hfault⟩ | ⟨page, p, _, hok⟩⟩ :=
    walk_cases o s c st range ia inSpace
  · rw [hfault] at h; cases h
  · rw [hok] at h; cases h
    have := initialLevels_bounds hstart
    exact ⟨by omega, hlast, ⟨page, rfl⟩, ⟨p, rfl⟩⟩

theorem walk_fault {o : OpenParameters} {s : State} {c : Context} {st : Stage} {range : VARange} {ia : Nat}
    {inSpace : Option PASpace} {f : MMUFault} (h : (walk o s c st range ia inSpace).result = .fault f) :
    f.stage = st.number ∧ -2 ≤ f.level ∧ f.level ≤ 3 := by
  obtain ⟨-, start, more, hstart, hlast, -, -, -, -, ⟨_, hfault⟩ | ⟨_, _, _, hok⟩⟩ :=
    walk_cases o s c st range ia inSpace
  · rw [hfault] at h; cases h
    have := initialLevels_bounds hstart
    exact ⟨rfl, show -2 ≤ start + (more : Int) by omega, hlast⟩
  · rw [hok] at h; cases h

/-- The last read of a walk is at the level of its OA or of its fault. -/
theorem walk_reads_eq_append_last (o : OpenParameters) (s : State) (c : Context) (st : Stage)
    (range : VARange) (ia : Nat) (inSpace : Option PASpace) :
    ∃ before last, (walk o s c st range ia inSpace).reads = before ++ [last] ∧
      (∀ oa space level info, (walk o s c st range ia inSpace).result = .ok oa space level info →
        last.level = level) ∧
      ∀ f, (walk o s c st range ia inSpace).result = .fault f → last.level = f.level := by
  obtain ⟨inp, start, more, -, -, -, -, -, hreads, hresult⟩ := walk_cases o s c st range ia inSpace
  obtain ⟨before, last, happend, hlevel⟩ := tableReads_eq_append_last o inp start more
  refine ⟨before, last, hreads.trans happend, ?_⟩
  obtain ⟨_, hfault⟩ | ⟨_, _, _, hok⟩ := hresult
  · rw [hfault]
    exact ⟨by rintro _ _ _ _ ⟨⟩, by rintro _ ⟨⟩; exact hlevel⟩
  · rw [hok]
    exact ⟨by rintro _ _ _ _ ⟨⟩; exact hlevel, by rintro _ ⟨⟩⟩

/-- Settles O51: what a walk can come to is forced through the constraints, each of which holds of whatever the open
parameters answer. -/
theorem walkKeepsItsConstraints : Obligations.WalkKeepsItsConstraints := by
  unfold Obligations.WalkKeepsItsConstraints
  intro o s c st range ia inSpace
  refine ⟨?succeeds, fun _ => walk_fault, fun _ => walk_reads o s c st range ia inSpace,
    walk_reads_eq_append_last o s c st range ia inSpace, rfl, fun p =>
      ⟨permittedIPASpace_nonSecure_iff p, permittedIPASpace_secure_iff p, permittedIPASpace_realm_iff p⟩⟩
  case succeeds =>
    intro oa space level info h
    obtain ⟨hlow, hhigh, ⟨page, rfl⟩, ⟨p, rfl⟩⟩ := walk_ok h
    have hsize : 16 ≤ maxOASize s st range := by
      have := maxOASize_bounds s st range
      omega
    exact ⟨hlow, hhigh, constrainOA_lt _ page ia hsize, constrainOA_low _ _ page ia,
      constrainSpace_permitted s.cfg c st p⟩

end Machine

end Sys2Proof
end

section
/-! SUPPORT. The composition of the stages (R79, R80, R82): what a translation in a regime is for each result of its
stages, and `Translate` for each answer of the checks before it. -/

namespace Sys2Proof.Machine

/-- What a stage's result is as the result of a translation that it ends. -/
def StageResult.toTranslation : StageResult → Translation
  | .ok oa space _ info => .ok oa space info
  | .fault f => .fault f
  | .refused x => .refused x

section Stages

variable {o : OpenParameters} {s : State} {c : Context} {r : Regime} {va : Nat}

theorem translateIn_of_stage1_fault {f : MMUFault}
    (h : (translateStage o s c (.one r) va none).result = .fault f) :
    translateIn o s c r va =
      { result := .fault f, reads := (translateStage o s c (.one r) va none).reads } := by
  simp [translateIn, h]

theorem translateIn_of_stage1_refused {x : Refusal}
    (h : (translateStage o s c (.one r) va none).result = .refused x) :
    translateIn o s c r va =
      { result := .refused x, reads := (translateStage o s c (.one r) va none).reads } := by
  simp [translateIn, h]

theorem translateIn_of_no_stage2 {oa : Nat} {space : PASpace} {level : Option Int} {info : Info}
    (h1 : (translateStage o s c (.one r) va none).result = .ok oa space level info)
    (h2 : stage2Of s.cfg r c = none) :
    translateIn o s c r va =
      { result := .ok oa space info, reads := (translateStage o s c (.one r) va none).reads } := by
  simp [translateIn, h1, h2]

/-- Where a stage 2 follows, it takes the OA of stage 1 as its IPA, in the space stage 1 gave, and its result is that
of the translation. -/
theorem translateIn_of_stage2 {oa : Nat} {space : PASpace} {level : Option Int} {info : Info} {w : World}
    (h1 : (translateStage o s c (.one r) va none).result = .ok oa space level info)
    (h2 : stage2Of s.cfg r c = some w) :
    translateIn o s c r va =
      { result := (translateStage o s c (.two w) oa (some space)).result.toTranslation
        reads := (translateStage o s c (.one r) va none).reads ++
          (translateStage o s c (.two w) oa (some space)).reads } := by
  unfold translateIn
  simp only [h1, h2]
  cases (translateStage o s c (.two w) oa (some space)).result <;> rfl

end Stages

section Checks

variable {o : OpenParameters} {s : State} {c : Context} {r : Regime}

theorem translate_of_no_refusal (hr : regimeOf c = some r) (h : translationRefusal s c r = none) (va : VA) :
    translate o s c va = translateIn o s c r (accessAddress s.cfg c va) := by
  simp [translate, hr, h]

theorem translate_of_refusal {x : Refusal} (hr : regimeOf c = some r)
    (h : translationRefusal s c r = some x) (va : VA) :
    translate o s c va = { result := .refused x, reads := [] } := by
  simp [translate, hr, h]

end Checks

theorem el0AArch32_iff (cfg : Config) (c : Context) :
    el0AArch32 cfg c = true ↔ c.el = .el0 ∧ cfg.usesAArch64.el0 = false := by
  simp [el0AArch32]

theorem accessAddress_eq (cfg : Config) (c : Context) (va : VA) :
    accessAddress cfg c va =
      if c.el = .el0 ∧ cfg.usesAArch64.el0 = false then va.toNat % 2 ^ 32 else va.toNat := by
  simp only [accessAddress, el0AArch32_iff]

/-- Settles O54: by the result of stage 1, and where a stage 2 follows by its result; `Translate` by the answer of the
checks before it. -/
theorem stagesCompose : Obligations.StagesCompose := by
  unfold Obligations.StagesCompose
  intro o s c r va
  refine ⟨fun _ => translateIn_of_stage1_fault, fun _ => translateIn_of_stage1_refused, ?stage1Succeeds,
    fun va' hr => ⟨fun h => translate_of_no_refusal hr h va', fun _ h => translate_of_refusal hr h va',
      accessAddress_eq s.cfg c va'⟩⟩
  case stage1Succeeds =>
    intro oa space level info h1
    refine ⟨translateIn_of_no_stage2 h1, fun w h2 => ?_⟩
    rw [translateIn_of_stage2 h1 h2]
    refine ⟨fun f h => ?fault, fun x h => ?refused, fun pa space2 level2 info2 h => ?ok⟩ <;>
      rw [h] <;> rfl

end Sys2Proof.Machine
end

section
/-! SUPPORT. Another agent's write of a byte (R90, R270, R395, log entry 34). -/

namespace Sys2Proof.Machine

/-- At an address that exists the write is that of the memory, and nothing else changes. -/
theorem opMemWrite_of_lt {s : State} {pa : Nat} (h : pa < 2 ^ paSize s.cfg) (space : PASpace) (b : Byte) :
    opMemWrite space pa b s = .next { s with mem := s.mem.write space pa b } :=
  if_neg (Nat.not_le_of_lt h)

/-- Settles O27: the operation completes as a write of the memory, which reads back, leaves every other byte and keeps
the canonical form. -/
theorem memWriteSetsOneByte : Obligations.MemWriteSetsOneByte := by
  unfold Obligations.MemWriteSetsOneByte
  intro o s space pa b hpa
  have hnext : perform o (.memWrite space pa b) s = .next { s with mem := s.mem.write space pa b } :=
    opMemWrite_of_lt hpa space b
  exact ⟨s.mem.write space pa b, hnext, s.mem.read_write_same space pa b,
    fun _ _ hne => s.mem.read_write_ne b hne, s.mem.wf_write space pa b⟩

end Sys2Proof.Machine
end

section
/-! SUPPORT. The choice of the translation system (R70 to R73): by the D128 field that names the stage, if one does. -/

namespace Sys2Proof.Machine

theorem usesVMSAv9_128_iff_of_d128Control {s : State} {st : Stage} {r : D128Reg}
    (hr : d128ControlOf st = some r) (hsup : s.cfg.supportsVMSAv9_128 = true) :
    usesVMSAv9_128 s st = true ↔ s.regs.read (.d128 r) = 1 := by
  simp [usesVMSAv9_128, hr, hsup, SysRegs.read]

theorem usesVMSAv9_128_of_no_d128Control {s : State} {st : Stage} (h : d128ControlOf st = none) :
    usesVMSAv9_128 s st = false := by
  simp [usesVMSAv9_128, h]

/-- Without the support of VMSAv9-128 every D128 field counts as 0 (R70). -/
theorem usesVMSAv9_128_of_unsupported {s : State} (h : s.cfg.supportsVMSAv9_128 = false) (st : Stage) :
    usesVMSAv9_128 s st = false := by
  unfold usesVMSAv9_128
  cases d128ControlOf st with
  | none => rfl
  | some r => simp [h]

/-- Settles O30: each stage is read off the D128 field that `d128ControlOf` names for it; the stage 1 of an EL2 regime
has none. -/
theorem systemSelection : Obligations.SystemSelection := by
  unfold Obligations.SystemSelection
  intro s w
  refine ⟨fun hsup => ?supported, usesVMSAv9_128_of_unsupported, fun _ => rfl⟩
  case supported =>
    exact ⟨usesVMSAv9_128_iff_of_d128Control rfl hsup, usesVMSAv9_128_iff_of_d128Control rfl hsup,
      usesVMSAv9_128_iff_of_d128Control rfl hsup, usesVMSAv9_128_iff_of_d128Control rfl hsup,
      usesVMSAv9_128_of_no_d128Control rfl⟩

end Sys2Proof.Machine
end

section
/-! SUPPORT. A disabled stage (R78, R83): the OA is the IA wherever the check of R329 lets a stage 1 pass. -/

namespace Sys2Proof.Machine

theorem flatStage_of_fits (o : OpenParameters) {s : State} (c : Context) {st : Stage} {ia : Nat}
    (inSpace : Option PASpace) (h : st.number = .one → ia < 2 ^ paSize s.cfg) :
    flatStage o s c st ia inSpace =
      .ok ia (constrainSpace s.cfg c st (o.flatSpace (c.seenBy st) st.number inSpace)) none
        (o.flatInfo (c.seenBy st) st.number inSpace) :=
  if_neg fun ⟨hone, hle⟩ => Nat.not_lt_of_le hle (h hone)

/-- Settles O47: a disabled stage makes no walk, and its flat output is the IA where a stage 1 fits the PA size. -/
theorem disabledStageIsFlat : Obligations.DisabledStageIsFlat := by
  unfold Obligations.DisabledStageIsFlat
  intro o s c st ia inSpace hdis hfits
  rw [translateStage_disabled hdis, flatStage_of_fits o c inSpace hfits]
  exact ⟨_, _, rfl⟩

end Sys2Proof.Machine
end

section
/-! SUPPORT. The encodings of R122 and R123: a word is given by its bits under the DSB mask and its option, and four
bytes by the word they store (log entry 4). -/

namespace Sys2Proof

/-- Outside the mask of R122 a word has the four bits of its option and no other. -/
theorem and_not_dsbMask (w : InstrWord) :
    w &&& ~~~dsbMask = (w.extractLsb' 8 4).setWidth 32 <<< 8 := by
  have hmask : ∀ i : Fin 32, (~~~dsbMask).getLsbD i = decide (8 ≤ i.val ∧ i.val - 8 < 4) := by decide
  ext i hi
  have hbit := hmask ⟨i, hi⟩
  rw [BitVec.getElem_and, ← BitVec.getLsbD_eq_getElem (x := ~~~dsbMask), hbit]
  by_cases hlow : i < 8
  · simp [hlow]
  · have hshift : 8 + (i - 8) = i := by omega
    simp [hlow, hshift, hi, Nat.le_of_not_lt hlow, Bool.and_comm]

/-- A word with the fixed bits of DSB is the word of DSB with the word's option. -/
theorem eq_encodeWord_dsb {w : InstrWord} (h : w &&& dsbMask = dsbMatch) :
    w = encodeWord (.dsb (w.extractLsb' 8 4)) :=
  calc
    w = (w &&& dsbMask) ||| (w &&& ~~~dsbMask) := by
      rw [← BitVec.and_or_distrib_left, BitVec.or_not_self, BitVec.and_allOnes]
    _ = encodeWord (.dsb (w.extractLsb' 8 4)) := by rw [h, and_not_dsbMask]; rfl

/-- The fixed bits of a DSB word are those of R122, whatever the option, and its option is read back. -/
theorem encodeWord_dsb_fields (crm : BitVec 4) :
    encodeWord (.dsb crm) &&& dsbMask = dsbMatch ∧ (encodeWord (.dsb crm)).extractLsb' 8 4 = crm := by
  revert crm
  decide

theorem decodeWord_encodeWord (i : Instr) : decodeWord (encodeWord i) = .ok i := by
  cases i with
  | dsb crm =>
    obtain ⟨hfixed, hoption⟩ := encodeWord_dsb_fields crm
    simp [decodeWord, hfixed, hoption]
  | psb => rfl

theorem eq_encodeWord_of_decodeWord {w : InstrWord} {i : Instr} (h : decodeWord w = .ok i) :
    w = encodeWord i := by
  unfold decodeWord at h
  split at h
  · next hdsb => cases h; exact eq_encodeWord_dsb hdsb
  · split at h
    · next hpsb => cases h; exact hpsb
    · cases h

/-- Settles O1: the decoder undoes the encoder, and a word it accepts has the fixed bits of the instruction it gives,
so that it is that instruction's word. -/
theorem decodeWordIffEncodeWord : Obligations.DecodeWordIffEncodeWord := by
  unfold Obligations.DecodeWordIffEncodeWord
  intro w i
  constructor
  · exact eq_encodeWord_of_decodeWord
  · rintro rfl
    exact decodeWord_encodeWord i

/-- Bit by bit, the first byte is the least significant. -/
theorem getLsbD_wordOfBytes (b0 b1 b2 b3 : Byte) (i : Nat) :
    (wordOfBytes b0 b1 b2 b3).getLsbD i =
      if i < 8 then b0.getLsbD i
      else if i < 16 then b1.getLsbD (i - 8)
      else if i < 24 then b2.getLsbD (i - 16)
      else b3.getLsbD (i - 24) := by
  have hbyte0 := BitVec.getLsbD_append (x := b3 ++ b2 ++ b1) (y := b0) (i := i)
  have hbyte1 := BitVec.getLsbD_append (x := b3 ++ b2) (y := b1) (i := i - 8)
  have hbyte2 := BitVec.getLsbD_append (x := b3) (y := b2) (i := i - 8 - 8)
  have hword : wordOfBytes b0 b1 b2 b3 = b3 ++ b2 ++ b1 ++ b0 := rfl
  rw [hword, hbyte0, hbyte1, hbyte2]
  grind

/-- Each byte is read back from the eight bits it was stored in. -/
theorem bytesOfWord_wordOfBytes (b0 b1 b2 b3 : Byte) :
    bytesOfWord (wordOfBytes b0 b1 b2 b3) = [b0, b1, b2, b3] := by
  have hbyte (n : Nat) (b : Byte) (h : ∀ i < 8, (wordOfBytes b0 b1 b2 b3).getLsbD (n + i) = b.getLsbD i) :
      (wordOfBytes b0 b1 b2 b3).extractLsb' n 8 = b := by
    ext i hi
    simpa [hi] using h i hi
  rw [bytesOfWord, hbyte 0 b0, hbyte 8 b1, hbyte 16 b2, hbyte 24 b3] <;>
    intro i hi <;> rw [getLsbD_wordOfBytes] <;> grind

/-- The four bytes of a word, put together again, are the word. -/
theorem wordOfBytes_extract (w : InstrWord) :
    wordOfBytes (w.extractLsb' 0 8) (w.extractLsb' 8 8) (w.extractLsb' 16 8) (w.extractLsb' 24 8) = w := by
  apply BitVec.eq_of_getLsbD_eq
  intro i hi
  rw [getLsbD_wordOfBytes]
  grind

/-- The decoder reads the word that the first four bytes store, and leaves the bytes after them. -/
theorem decode_eq_ok_iff (bytes rest : List Byte) (i : Instr) :
    decode bytes = .ok (i, rest) ↔ ∃ w, decodeWord w = .ok i ∧ bytes = bytesOfWord w ++ rest := by
  constructor
  · intro h
    unfold decode at h
    split at h
    · next b0 b1 b2 b3 tail =>
      split at h
      · next hw => cases h; exact ⟨_, hw, by rw [bytesOfWord_wordOfBytes]; rfl⟩
      · cases h
    · cases h
  · rintro ⟨w, hw, rfl⟩
    simp [bytesOfWord, decode, wordOfBytes_extract, hw]

/-- Settles O2: bytes decode by the word they begin with, and that word decodes exactly to the instruction that it
encodes (O1). -/
theorem decodeBytesIffEncode : Obligations.DecodeBytesIffEncode := by
  unfold Obligations.DecodeBytesIffEncode
  intro bytes rest i _
  have hword (w : InstrWord) : decodeWord w = .ok i ↔ w = encodeWord i := decodeWordIffEncodeWord w i
  simp only [decode_eq_ok_iff, hword, exists_eq_left, encode]

/-- Settles O3: a word of the table decodes to the instruction that encodes to it; the last two words have neither
the fixed bits of DSB nor the word of PSB. -/
theorem wordsOfTheTableDecode : Obligations.WordsOfTheTableDecode := by
  unfold Obligations.WordsOfTheTableDecode
  exact ⟨decodeWord_encodeWord (.dsb 0b1111), decodeWord_encodeWord (.dsb 0b0000),
    decodeWord_encodeWord (.dsb 0b1011), decodeWord_encodeWord .psb, by decide, by decide⟩

end Sys2Proof
end

section
/-! SUPPORT. A configuration that is an implementation (R271, R272, decision D12), and the turn that a schedule begins
with (log entry 6). -/

namespace Sys2Proof

theorem configRefusal_of_reserved {cfg : Config} (h : paRangeBits cfg.paRange = none) :
    configRefusal cfg = some .reservedPARange := by
  simp [configRefusal, h]

theorem configRefusal_of_large {cfg : Config} {n : Nat} (h : paRangeBits cfg.paRange = some n) (hn : 48 < n)
    (hlpa : cfg.featLPA = false) : configRefusal cfg = some .paSizeNeedsLPA := by
  simp [configRefusal, h, hn, hlpa]

theorem configRefusal_of_allowed {cfg : Config} {n : Nat} (h : paRangeBits cfg.paRange = some n)
    (hn : n ≤ 48 ∨ cfg.featLPA = true) : configRefusal cfg = none := by
  have hfits : ¬ (48 < n ∧ cfg.featLPA = false) := by
    rintro ⟨hlarge, hlpa⟩
    simp [hlpa, Nat.not_le_of_lt hlarge] at hn
  simp [configRefusal, h, hfits]

/-- A configuration is an implementation by its PA size: one that exists, and that FEAT_LPA covers above 48 bits. -/
theorem Config.wellFormed_iff (cfg : Config) :
    cfg.wellFormed = true ↔ ∃ n, paRangeBits cfg.paRange = some n ∧ (n ≤ 48 ∨ cfg.featLPA = true) := by
  rw [Config.wellFormed, decide_eq_true_iff]
  constructor
  · intro hnone
    cases hsize : paRangeBits cfg.paRange with
    | none => simp [configRefusal_of_reserved hsize] at hnone
    | some n =>
      refine ⟨n, rfl, ?_⟩
      by_contra! hlarge
      obtain ⟨hn, hlpa⟩ := hlarge
      simp [configRefusal_of_large hsize hn (by simpa using hlpa)] at hnone
  · rintro ⟨n, hsize, hn⟩
    exact configRefusal_of_allowed hsize hn

namespace Machine

/-- Settles O5: an implementation takes its turn, which is the operation at the head of the schedule; any other
configuration is refused for the reason that its PA size gives. -/
theorem stepPerformsScheduledOperation : Obligations.StepPerformsScheduledOperation := by
  unfold Obligations.StepPerformsScheduledOperation
  intro s op turns
  refine ⟨fun hw => ?performs, s.cfg.wellFormed_iff, fun hsize => ?reserved, fun n hsize hn hlpa => ?large⟩
  case performs => exact step_of_configRefusal (configRefusal_of_wellFormed hw)
  case reserved => exact step_refused (configRefusal_of_reserved hsize)
  case large => exact step_refused (configRefusal_of_large hsize hn hlpa)

end Machine

end Sys2Proof
end

section
/-! SUPPORT. The values a field takes (R125, R126, log entry 29), and setting a field (R129, log entry 35). -/

namespace Sys2Proof

/-- A field of a stated width holds the numbers of that many bits. -/
theorem SysField.fits_iff_of_width {f : SysField} {n : Nat} (h : f.width = some n) (v : Nat) :
    f.fits v = true ↔ v < 2 ^ n := by
  simp [SysField.fits, h]

theorem SysField.width_of_tnsz {f : SysField} (h : (∃ r, f = .t0sz r) ∨ ∃ r, f = .t1sz r) :
    f.width = some 6 := by
  obtain ⟨r, rfl⟩ | ⟨r, rfl⟩ := h <;> rfl

/-- DS, D128 and the fields of HCR_EL2 and SCR_EL3 are single bits. -/
theorem SysField.width_of_bit {f : SysField}
    (h : (∃ r, f = .ds r) ∨ (∃ r, f = .d128 r) ∨ f ∈ [.e2h, .tge, .nse, .ns, .eel2]) :
    f.width = some 1 := by
  obtain ⟨r, rfl⟩ | ⟨r, rfl⟩ | hmem := h
  · rfl
  · rfl
  · simp only [List.mem_cons, List.not_mem_nil, or_false] at hmem
    obtain rfl | rfl | rfl | rfl | rfl := hmem <;> rfl

namespace Machine

theorem opSetField_of_not_fits {f : SysField} {v : Nat} {s : State}
    (hel : f.reg.accessibleFrom s.el = true) (hv : f.fits v = false) :
    opSetField f v s = .refused .valueDoesNotFit := by
  simp [opSetField, hel, hv]

/-- Settles O19: setting an accessible field is the write of the registers, which reads back and leaves every other
field, and the values that fit are those of the field's width. -/
theorem setFieldSetsOneField : Obligations.SetFieldSetsOneField := by
  unfold Obligations.SetFieldSetsOneField
  intro o s f v hlevel
  have hel : f.reg.accessibleFrom s.el = true := (SysReg.accessibleFrom_iff _ _).mpr hlevel
  refine ⟨fun hv => ?sets, fun hv => ?refuses, fun h => ?tnsz, ?oaSize, fun h => ?bit, ?rest⟩
  case sets =>
    exact ⟨s.regs.write f v, opSetField_of_accessible hel hv, s.regs.read_write_same f v hv,
      fun _ hne => s.regs.read_write_ne v hne⟩
  case refuses => exact opSetField_of_not_fits hel hv
  case tnsz => exact SysField.fits_iff_of_width (SysField.width_of_tnsz h) v
  case oaSize =>
    rintro ⟨r, rfl⟩
    exact SysField.fits_iff_of_width (f := .oaSize r) (n := 3) rfl v
  case bit => exact SysField.fits_iff_of_width (SysField.width_of_bit h) v
  case rest =>
    rintro ⟨r, rfl⟩
    rfl

end Machine

end Sys2Proof
end

section
/-! SUPPORT. Who controls a stage and which stages translate the software (R27, R176, R424, log entries 12 and 15), and
what enabling a stage and selecting a granule of it do. -/

namespace Sys2Proof.Machine

/-- Control is by the row of Table D8-3: its Exception level, implemented, or above, and its Security state unless at
EL3. -/
theorem State.controls_iff (s : State) (st : Stage) :
    s.controls st = true ↔ implementsEL s.cfg (controlledFromEL st) = true ∧
      (controlledFromEL st).num ≤ s.el.num ∧
      (s.el = .el3 ∨ ∃ w, controlledFromWorld st = some w ∧ w.ss = s.ss) := by
  unfold State.controls
  cases controlledFromWorld st <;> simp [and_assoc]

/-- The stages that translate the software are the stage 1 and the stage 2 of its regime. -/
theorem State.translatedBy_iff (s : State) (st : Stage) :
    s.translatedBy st = true ↔ ∃ r, regimeOf s.ctx = some r ∧
      (st = .one r ∨ ∃ w, st = .two w ∧ stage2Of s.cfg r s.ctx = some w) := by
  unfold State.translatedBy
  cases regimeOf s.ctx with
  | none => simp
  | some r => cases st <;> simp

theorem State.mem_unsettledAfter_iff (s : State) (st : Stage) (b : Bool) (st' : Stage) :
    st' ∈ s.unsettledAfter st b ↔
      st' ∈ s.unsettled ∨ st' = st ∧ s.translatedBy st = true ∧ s.enabled.get st ≠ b := by
  unfold State.unsettledAfter
  split
  · next hjoins =>
    simp only [Bool.and_eq_true, decide_eq_true_eq] at hjoins
    obtain ⟨⟨htranslated, hchanges⟩, -⟩ := hjoins
    simp [htranslated, hchanges, or_comm]
  · next hstays =>
    refine ⟨.inl, fun h => h.elim id ?_⟩
    rintro ⟨rfl, htranslated, hchanges⟩
    simpa [htranslated, hchanges] using hstays

theorem opSetEnabled_refused {s : State} {st : Stage} (h : s.controls st = false) (b : Bool) :
    opSetEnabled st b s = .refused .stageNotControlledHere := if_pos h

theorem opSetEnabled_of_controls {s : State} {st : Stage} (h : s.controls st = true) (b : Bool) :
    opSetEnabled st b s =
      .next { s with enabled := s.enabled.set st b, unsettled := s.unsettledAfter st b } := by
  simp [opSetEnabled, h]

theorem opSetGranule_refused {s : State} {st : Stage} (h : s.controls st = false) (range : VARange)
    (g : Granule) : opSetGranule st range g s = .refused .stageNotControlledHere := if_pos h

theorem opSetGranule_of_controls {s : State} {st : Stage} (h : s.controls st = true) (range : VARange)
    (g : Granule) :
    opSetGranule st range g s =
      .next { s with granules := s.granules.set st ((s.granules.get st).set range g) } := by
  simp [opSetGranule, h]

/-- Settles O23: control and translation are read off Table D8-3 and the regime; where the stage is controlled its
enable is set and no other, and the unsettled stages gain at most that one. -/
theorem setEnabledSetsOneStage : Obligations.SetEnabledSetsOneStage := by
  unfold Obligations.SetEnabledSetsOneStage
  intro o s st b
  refine ⟨s.controls_iff st, fun h => ?refused, s.translatedBy_iff st, fun h => ?sets⟩
  case refused => exact ⟨opSetEnabled_refused h b, opSetGranule_refused h⟩
  case sets =>
    exact ⟨s.enabled.set st b, s.unsettledAfter st b, opSetEnabled_of_controls h b,
      s.enabled.get_set_same st b, fun _ hne => s.enabled.get_set_ne b hne, s.mem_unsettledAfter_iff st b⟩

end Sys2Proof.Machine
end

section
/-! SUPPORT. Granules (R142, R143, R148, R149, decision D4): the two places of a stage, and where support is read. -/

namespace Sys2Proof

theorem RangeGranules.get_lower_set_upper (t : RangeGranules) (g : Granule) :
    (t.set .upper g).get .lower = t.get .lower := rfl

theorem RangeGranules.get_upper_set {range : VARange} (h : range ≠ .upper) (t : RangeGranules) (g : Granule) :
    (t.set range g).get .upper = t.get .upper := by
  cases range with
  | upper => exact absurd rfl h
  | lower | single => rfl

/-- The TGran_2 fields are read for stage 2 with FEAT_GTG, the TGran fields otherwise (R148). -/
theorem granuleSupported_eq (cfg : Config) (k : StageNumber) :
    [granuleSupported cfg k .g4KB, granuleSupported cfg k .g16KB, granuleSupported cfg k .g64KB] =
      if k = .two ∧ cfg.featGTG = true then [cfg.tgran4Stage2, cfg.tgran16Stage2, cfg.tgran64Stage2]
      else [cfg.tgran4, cfg.tgran16, cfg.tgran64] := by
  cases k <;> cases hgtg : cfg.featGTG <;> simp [granuleSupported, hgtg]

namespace Machine

theorem granuleOf_set_same (s : State) (st : Stage) (t : RangeGranules) (range : VARange) :
    granuleOf { s with granules := s.granules.set st t } st range = t.get range := by
  simp [granuleOf]

theorem granuleOf_set_ne (s : State) {st st' : Stage} (h : st' ≠ st) (t : RangeGranules) (range : VARange) :
    granuleOf { s with granules := s.granules.set st t } st' range = granuleOf s st' range := by
  simp [granuleOf, s.granules.get_set_ne t h]

/-- An enabled stage with an unsupported granule makes no walk (R149, decision D4). -/
theorem translateStage_unsupported (o : OpenParameters) {s : State} (c : Context) {st : Stage} {ia : Nat}
    (inSpace : Option PASpace) (he : s.enabled.get st = true)
    (hg : granuleSupported s.cfg st.number (granuleOf s st (stageRange st ia)) = false) :
    translateStage o s c st ia inSpace = { result := .refused .granuleNotSupported, reads := [] } := by
  simp [translateStage, he, hg]

/-- Settles O24: selecting a granule sets one of the two places of one stage; support is read off the TGran fields;
the check of an enabled stage's granule comes before its walk. -/
theorem granuleSelectionAndSupport : Obligations.GranuleSelectionAndSupport := by
  unfold Obligations.GranuleSelectionAndSupport
  refine fun o s => ⟨fun st range g hcontrols => ?selection, granuleSupported_eq s.cfg,
    fun c st ia inSpace => translateStage_unsupported o c inSpace⟩
  case selection =>
    refine ⟨_, opSetGranule_of_controls hcontrols range g, ?chosen, ?keepsLower, ?keepsUpper,
      fun _ range' hne => granuleOf_set_ne s hne _ range', rfl⟩
    case chosen => rw [granuleOf_set_same, RangeGranules.get_set_same]
    case keepsLower =>
      rintro rfl
      rw [granuleOf_set_same, RangeGranules.get_lower_set_upper, granuleOf]
    case keepsUpper =>
      intro hrange
      rw [granuleOf_set_same, RangeGranules.get_upper_set hrange, granuleOf]

end Machine

end Sys2Proof
end

section
/-! SUPPORT. The operation Access (R82, R129): it records what its translation comes to, and a translation through
disabled stages gives the address itself (R78, R80). -/

namespace Sys2Proof.Machine

section Access

variable {o : OpenParameters} {s : State} {va : VA}

theorem opAccess_of_ok {pa : Nat} {space : PASpace} {info : Info}
    (h : (translate o s s.ctx va).result = .ok pa space info) :
    opAccess o va s = .next (s.recordAccess va (.ok pa space info) (translate o s s.ctx va).reads) := by
  simp [opAccess, h]

theorem opAccess_of_fault {f : MMUFault} (h : (translate o s s.ctx va).result = .fault f) :
    opAccess o va s = .next (s.recordAccess va (.fault f) (translate o s s.ctx va).reads) := by
  simp [opAccess, h]

theorem opAccess_of_refused {x : Refusal} (h : (translate o s s.ctx va).result = .refused x) :
    opAccess o va s = .refused x := by
  simp [opAccess, h]

end Access

/-- An access without a table read only shows its result. -/
theorem State.recordAccess_nil (s : State) (va : VA) (r : AccessResult) :
    s.recordAccess va r [] = { s with observations := s.observations ++ [.access s.ctx va r] } := by
  simp [State.recordAccess]

/-- A disabled stage whose input passes the check of R329 gives it as its output, and reads no table. -/
theorem translateStage_flat (o : OpenParameters) {s : State} (c : Context) {st : Stage} {ia : Nat}
    (inSpace : Option PASpace) (hdis : s.enabled.get st = false)
    (hfits : st.number = .one → ia < 2 ^ paSize s.cfg) :
    ∃ space info, translateStage o s c st ia inSpace = { result := .ok ia space none info, reads := [] } :=
  disabledStageIsFlat o s c st ia inSpace hdis hfits

/-- With every stage of a regime disabled, an address that fits the PA size is its own PA. -/
theorem translateIn_flat (o : OpenParameters) {s : State} {c : Context} {r : Regime} {va : Nat}
    (h1 : s.enabled.get (.one r) = false)
    (h2 : ∀ w, stage2Of s.cfg r c = some w → s.enabled.get (.two w) = false)
    (hfits : va < 2 ^ paSize s.cfg) :
    ∃ space info, translateIn o s c r va = { result := .ok va space info, reads := [] } := by
  obtain ⟨space1, info1, hstage1⟩ := translateStage_flat o c none h1 fun _ => hfits
  have hok1 : (translateStage o s c (.one r) va none).result = .ok va space1 none info1 := by rw [hstage1]
  cases hstage : stage2Of s.cfg r c with
  | none => exact ⟨space1, info1, by rw [translateIn_of_no_stage2 hok1 hstage, hstage1]⟩
  | some w =>
    obtain ⟨space2, info2, hstage2⟩ := translateStage_flat (st := .two w) (ia := va) o c (some space1)
      (h2 w hstage) nofun
    exact ⟨space2, info2, by rw [translateIn_of_stage2 hok1 hstage, hstage1, hstage2]; rfl⟩

/-- Settles O58: the operation is made in the context of the PE and records what its translation comes to; with the
stages disabled the translation is flat, so that no read is recorded. -/
theorem accessShowsItsTranslation : Obligations.AccessShowsItsTranslation := by
  unfold Obligations.AccessShowsItsTranslation
  intro o s va
  refine ⟨?context, fun _ _ _ => opAccess_of_ok, fun _ => opAccess_of_fault, fun _ => opAccess_of_refused,
    fun r hregime hallowed h1 h2 hfits => ?flat⟩
  case context => cases hss : s.ss <;> simp [State.ctx, SecurityState.nsePair, hss]
  case flat =>
    obtain ⟨space, info, hflat⟩ := translateIn_flat o h1 h2 hfits
    rw [← translate_of_no_refusal hregime hallowed] at hflat
    have hresult : (translate o s s.ctx va).result = .ok (accessAddress s.cfg s.ctx va) space info := by
      rw [hflat]
    have haccess := opAccess_of_ok hresult
    rw [hflat, State.recordAccess_nil] at haccess
    exact ⟨space, info, haccess⟩

end Sys2Proof.Machine
end

section
/-! SUPPORT. The page of a walk's output (R144, R145): the page number and the space of an output are taken at the first
address of the input page, which all addresses of the page share. -/

namespace Sys2Proof

theorem pageBase_congr {g : Granule} {ia ia' : Nat} (h : ia / 2 ^ pageBits g = ia' / 2 ^ pageBits g) :
    pageBase g ia = pageBase g ia' := by
  rw [pageBase, h, pageBase]

/-- The page of a constrained OA is the page number it is made of, cut to the OA size, whatever the IA. -/
theorem constrainOA_div (g : Granule) (size page ia : Nat) :
    constrainOA g size page ia / 2 ^ pageBits g = page % 2 ^ (size - pageBits g) := by
  have hpos : 0 < 2 ^ pageBits g := Nat.two_pow_pos _
  have hoffset : ia % 2 ^ pageBits g / 2 ^ pageBits g = 0 := Nat.div_eq_of_lt (Nat.mod_lt ia hpos)
  rw [constrainOA, Nat.mul_comm, Nat.mul_add_div hpos, hoffset, Nat.add_zero]

namespace Machine

/-- The input that the page and the space of a walk's output are asked for with: that of the first address of the
input page (R144, log entry 8). -/
def pageInput (s : State) (c : Context) (st : Stage) (range : VARange) (ia : Nat)
    (inSpace : Option PASpace) : WalkInput :=
  walkInput s c st range (pageBase (granuleOf s st range) ia) inSpace

theorem pageInput_congr {s : State} {st : Stage} {range : VARange} {ia ia' : Nat} (c : Context)
    (inSpace : Option PASpace)
    (h : ia / 2 ^ pageBits (granuleOf s st range) = ia' / 2 ^ pageBits (granuleOf s st range)) :
    pageInput s c st range ia inSpace = pageInput s c st range ia' inSpace := by
  rw [pageInput, pageBase_congr h, pageInput]

/-- The OA and the space of a walk that succeeds are those that the tables hold for the input page, constrained. -/
theorem walk_ok_page {o : OpenParameters} {s : State} {c : Context} {st : Stage} {range : VARange} {ia : Nat}
    {inSpace : Option PASpace} {oa : Nat} {space : PASpace} {level : Int} {info : Info}
    (h : (walk o s c st range ia inSpace).result = .ok oa space level info) :
    oa = constrainOA (granuleOf s st range) (maxOASize s st range)
        (o.walkPage (pageInput s c st range ia inSpace)) ia ∧
      space = constrainSpace s.cfg c st (o.walkSpace (pageInput s c st range ia inSpace)) := by
  cases hfault : o.walkFault (walkInput s c st range ia inSpace) with
  | some f => simp [walk, hfault] at h
  | none =>
    simp only [walk, hfault, WalkResult.ok.injEq] at h
    obtain ⟨rfl, rfl, -, -⟩ := h
    exact ⟨rfl, rfl⟩

/-- Settles O52: the two walks ask for the page and the space of one input page, and the low bits that each OA takes
from its own IA do not reach its page number. -/
theorem onePageMapsToOnePage : Obligations.OnePageMapsToOnePage := by
  unfold Obligations.OnePageMapsToOnePage
  intro o s c st range ia ia' oa oa' inSpace space space' level level' info info' hpage hwalk hwalk'
  obtain ⟨rfl, rfl⟩ := walk_ok_page hwalk
  obtain ⟨rfl, rfl⟩ := walk_ok_page hwalk'
  rw [constrainOA_div, constrainOA_div, pageInput_congr c inSpace hpage]
  exact ⟨rfl, rfl⟩

end Machine

end Sys2Proof
end

section
/-! SUPPORT. Table D8-1 (R163) cell by cell, and the addresses that a translation gives: below `2^PASize()` (R332) and in
a space that the table permits, by the last stage that the translation goes through. -/

namespace Sys2Proof

theorem permittedPASpace_nonSecure (ss : SecurityState) : permittedPASpace ss .nonSecure = true := by
  cases ss <;> rfl

theorem permittedPASpace_secure_iff (ss : SecurityState) :
    permittedPASpace ss .secure = true ↔ ss = .secure ∨ ss = .root := by
  cases ss <;> decide

theorem permittedPASpace_realm_iff (ss : SecurityState) :
    permittedPASpace ss .realm = true ↔ ss = .realm ∨ ss = .root := by
  cases ss <;> decide

theorem permittedPASpace_root_iff (ss : SecurityState) : permittedPASpace ss .root = true ↔ ss = .root := by
  cases ss <;> decide

namespace Machine

section Results

variable {o : OpenParameters} {s : State} {c : Context} {r : Regime} {pa : Nat} {space : PASpace} {info : Info}

/-- The OA of a stage 1, enabled or not, fits the implemented PA size. -/
theorem translateStage_one_lt {va oa : Nat} {inSpace : Option PASpace} {level : Option Int}
    (h : (translateStage o s c (.one r) va inSpace).result = .ok oa space level info) :
    oa < 2 ^ paSize s.cfg := by
  obtain ⟨-, hlt | ⟨-, htwo, -⟩⟩ := translateStage_ok h
  · exact hlt
  · cases htwo

/-- A disabled stage 2 passes its IPA on, which as the OA of stage 1 fits the PA size. -/
theorem translateIn_lt {va : Nat} (h : (translateIn o s c r va).result = .ok pa space info) :
    pa < 2 ^ paSize s.cfg := by
  obtain ⟨oa, _, _, _, h1, ⟨-, rfl, -, -⟩ | ⟨w, _, -, h2⟩⟩ := translateIn_ok h
  · exact translateStage_one_lt h1
  · obtain ⟨-, hlt | ⟨-, -, rfl⟩⟩ := translateStage_ok h2
    · exact hlt
    · exact translateStage_one_lt h1

/-- The last stage of a translation gives its output a PA space of Table D8-1. -/
theorem translateIn_space_permitted {va : Nat} (h : (translateIn o s c r va).result = .ok pa space info) :
    permittedPASpace c.ss space = true := by
  obtain ⟨oa, _, _, _, h1, ⟨hnone, -, rfl, -⟩ | ⟨w, _, -, h2⟩⟩ := translateIn_ok h
  · obtain ⟨⟨p, rfl⟩, -⟩ := translateStage_ok h1
    obtain ⟨-, honly, -⟩ := constrainSpace_permitted s.cfg c (.one r) p
    exact honly r rfl hnone
  · obtain ⟨⟨p, rfl⟩, -⟩ := translateStage_ok h2
    obtain ⟨-, -, htwo⟩ := constrainSpace_permitted s.cfg c (.two w) p
    exact htwo w rfl

theorem translate_lt {va : VA} (h : (translate o s c va).result = .ok pa space info) :
    pa < 2 ^ paSize s.cfg := by
  obtain ⟨r, -, -, hin⟩ := translate_ok h
  exact translateIn_lt hin

theorem translate_space_permitted {va : VA} (h : (translate o s c va).result = .ok pa space info) :
    permittedPASpace c.ss space = true := by
  obtain ⟨r, -, -, hin⟩ := translate_ok h
  exact translateIn_space_permitted hin

end Results

/-- Settles O56: the space of a translation is one that Table D8-1 permits, and the table's cells say which those
are. -/
theorem translationStaysInPermittedSpaces : Obligations.TranslationStaysInPermittedSpaces := by
  unfold Obligations.TranslationStaysInPermittedSpaces
  refine ⟨⟨permittedPASpace_nonSecure, permittedPASpace_secure_iff, permittedPASpace_realm_iff,
    permittedPASpace_root_iff⟩, fun o s c va pa space info h => ?_⟩
  have hpermitted : permittedPASpace c.ss space = true := translate_space_permitted h
  refine ⟨hpermitted, ?secure, ?realm, ?root⟩
  case secure => rintro rfl; exact (permittedPASpace_secure_iff _).mp hpermitted
  case realm => rintro rfl; exact (permittedPASpace_realm_iff _).mp hpermitted
  case root => rintro rfl; exact (permittedPASpace_root_iff _).mp hpermitted

end Machine

end Sys2Proof
end

section
/-! SUPPORT. The machine's invariant, clause by clause, and what each shared update, each instruction and each operation
makes of it. -/

namespace Sys2Proof

theorem World.forall_iff {p : World → Prop} : (∀ w, p w) ↔ p .nonSecure ∧ p .secure ∧ p .realm := by
  refine ⟨fun h => ⟨h _, h _, h _⟩, fun ⟨hnonSecure, hsecure, hrealm⟩ w => ?_⟩
  cases w <;> assumption

/-- What a field holds is a value of it. -/
theorem SysRegs.fits_read (r : SysRegs) (f : SysField) : f.fits (r.read f) = true := by
  cases f with
  | t0sz g => exact decide_eq_true (r.t0sz g).isLt
  | t1sz g => exact decide_eq_true (r.t1sz g).isLt
  | oaSize g => exact decide_eq_true (r.oaSize g).isLt
  | ds g => exact decide_eq_true (r.ds g).toNat_lt
  | d128 g => exact decide_eq_true (r.d128 g).toNat_lt
  | e2h => exact decide_eq_true r.hcrEL2.e2h.toNat_lt
  | tge => exact decide_eq_true r.hcrEL2.tge.toNat_lt
  | nse => exact decide_eq_true r.scrEL3.nse.toNat_lt
  | ns => exact decide_eq_true r.scrEL3.ns.toNat_lt
  | eel2 => exact decide_eq_true r.scrEL3.eel2.toNat_lt
  | rest g => rfl

namespace Machine

/-- The clauses of `State.inv`, with names. -/
structure State.Invariant (s : State) : Prop where
  memCanonical : s.mem.wf = true
  memBelow : s.mem.below (2 ^ paSize s.cfg) = true
  levelImplemented : implementsEL s.cfg s.el = true
  noStage2WithoutEL2 : s.cfg.haveEL2 = false →
    ∀ w, s.enabled.get (.two w) = false ∧ Stage.two w ∉ s.unsettled
  walksAllowed : ∀ a ∈ s.inFlight, walkAccessAllowed s.cfg a = true
  spuWalksAllowed : ∀ a ∈ s.spuWalks, s.cfg.haveSPU = true ∧ walkAccessAllowed s.cfg a.access = true
  observationsAllowed : ∀ x ∈ s.observations, observationAllowed s.cfg x = true

theorem State.stage2NeedsEL2_iff (s : State) :
    s.stage2NeedsEL2 = true ↔ (s.cfg.haveEL2 = false →
      ∀ w, s.enabled.get (.two w) = false ∧ Stage.two w ∉ s.unsettled) := by
  cases hel2 : s.cfg.haveEL2 <;> simp [State.stage2NeedsEL2, hel2, World.forall_iff]

theorem State.inv_iff (s : State) : s.inv = true ↔ s.Invariant := by
  simp only [State.inv, Bool.and_eq_true, List.all_eq_true, State.stage2NeedsEL2_iff]
  constructor
  · rintro ⟨⟨⟨⟨⟨⟨hmem, hbelow⟩, hel⟩, hstage2⟩, hwalks⟩, hspu⟩, hobs⟩
    exact ⟨hmem, hbelow, hel, hstage2, hwalks, hspu, hobs⟩
  · rintro ⟨hmem, hbelow, hel, hstage2, hwalks, hspu, hobs⟩
    exact ⟨⟨⟨⟨⟨⟨hmem, hbelow⟩, hel⟩, hstage2⟩, hwalks⟩, hspu⟩, hobs⟩

theorem resultAllowed_of_translate {o : OpenParameters} {s : State} {c : Context} {va : VA} {pa : Nat}
    {space : PASpace} {info : Info} (h : (translate o s c va).result = .ok pa space info) :
    resultAllowed s.cfg c (.ok pa space info) = true := by
  simp [resultAllowed, translate_lt h, translate_space_permitted h]

/-- The accesses of a walk begun where its regime is permitted are allowed: they read memory that exists, at a level
of R85. -/
theorem walkAccessAllowed_of_speculative {o : OpenParameters} {s : State} {r : Regime} {va : VA} {a : WalkAccess}
    (hpermitted : walkPermitted s.el r = true) (h : a ∈ speculativeAccesses o s r va) :
    walkAccessAllowed s.cfg a = true := by
  obtain ⟨hel, hr, hlow, hhigh, hpa, -⟩ := mem_speculativeAccesses h
  simp [walkAccessAllowed, hel, hr, hlow, hhigh, hpa, hpermitted]

/-- Every stage 2 is controlled from EL2, so that without EL2 no software controls one. -/
theorem State.controls_two_eq_false {s : State} (hel2 : s.cfg.haveEL2 = false) (w : World) :
    s.controls (.two w) = false := by
  simp [State.controls, controlledFromEL, implementsEL, hel2]

namespace State.Invariant

variable {s : State}

theorem observe (h : s.Invariant) {x : Observation} (hx : observationAllowed s.cfg x = true) :
    State.Invariant { s with observations := s.observations ++ [x] } :=
  { h with
    observationsAllowed := by
      intro y hy
      obtain hold | hnew := List.mem_append.mp hy
      · exact h.observationsAllowed y hold
      · obtain rfl := List.mem_singleton.mp hnew
        exact hx }

theorem afterFetch (h : s.Invariant) (reads : List TableRead) : (s.afterFetch reads).Invariant := { h with }

theorem advancePc (h : s.Invariant) : s.advancePc.Invariant := { h with }

theorem writeAddr (h : s.Invariant) (r : AddrReg) (va : VA) : (s.writeAddr r va).Invariant := by
  rw [State.writeAddr_eq]
  exact { h with }

/-- What a DSB leaves in flight was in flight before. -/
theorem completeWalks (h : s.Invariant) : s.completeWalks.Invariant :=
  { h with
    walksAllowed := fun _ ha => absurd ha List.not_mem_nil
    spuWalksAllowed := fun a ha => h.spuWalksAllowed a (List.mem_of_mem_filter ha) }

/-- A mark changes nothing of the access it is set on. -/
theorem markSpuWalks (h : s.Invariant) : s.markSpuWalks.Invariant :=
  { h with
    spuWalksAllowed := by
      intro a ha
      obtain ⟨b, hb, rfl⟩ := List.mem_map.mp ha
      rw [markBelow_access]
      exact h.spuWalksAllowed b hb }

theorem recordAccess (h : s.Invariant) {va : VA} {r : AccessResult} (reads : List TableRead)
    (hr : resultAllowed s.cfg s.ctx r = true) : (s.recordAccess va r reads).Invariant :=
  { h.observe (x := .access s.ctx va r) hr with }

theorem takeException (h : s.Invariant) {el : EL} (hel : implementsEL s.cfg el = true) :
    (s.takeException el).Invariant :=
  { h with levelImplemented := hel }

theorem returnFromException (h : s.Invariant) {el : EL} (hel : implementsEL s.cfg el = true) :
    (s.returnFromException el).Invariant :=
  { h with
    levelImplemented := hel
    noStage2WithoutEL2 := fun hel2 w => ⟨(h.noStage2WithoutEL2 hel2 w).1, List.not_mem_nil⟩ }

theorem writeMem (h : s.Invariant) (space : PASpace) {pa : Nat} (b : Byte) (hpa : pa < 2 ^ paSize s.cfg) :
    State.Invariant { s with mem := s.mem.write space pa b } :=
  { h with
    memCanonical := s.mem.wf_write space pa b h.memCanonical
    memBelow := s.mem.below_write _ space pa b h.memBelow hpa }

/-- A stage that is controlled without EL2 is no stage 2, so that what is known of the stages 2 stays. -/
theorem setEnabled (h : s.Invariant) {st : Stage} (b : Bool) (hcontrols : s.controls st = true) :
    State.Invariant { s with enabled := s.enabled.set st b, unsettled := s.unsettledAfter st b } :=
  { h with
    noStage2WithoutEL2 := by
      intro (hel2 : s.cfg.haveEL2 = false) w
      have hne : Stage.two w ≠ st := by
        rintro rfl
        rw [State.controls_two_eq_false hel2] at hcontrols
        cases hcontrols
      obtain ⟨hdisabled, hsettled⟩ := h.noStage2WithoutEL2 hel2 w
      refine ⟨(s.enabled.get_set_ne b hne).trans hdisabled, fun hmem => ?_⟩
      obtain hold | ⟨rfl, -, -⟩ := (s.mem_unsettledAfter_iff st b _).mp hmem
      · exact hsettled hold
      · exact hne rfl }

theorem beginWalk (h : s.Invariant) (o : OpenParameters) (r : Regime) (va : VA) :
    (s.beginWalk o r va).Invariant := by
  rw [beginWalk_eq]
  refine { h with walksAllowed := fun a ha => ?_ }
  obtain hold | ⟨hpermitted, hnew⟩ := mem_beginWalk ha
  · exact h.walksAllowed a hold
  · exact walkAccessAllowed_of_speculative hpermitted hnew

theorem beginSpuWalk (h : s.Invariant) (o : OpenParameters) (r : Regime) (va : VA) :
    (s.beginSpuWalk o r va).Invariant := by
  rw [beginSpuWalk_eq]
  refine { h with spuWalksAllowed := fun a ha => ?_ }
  obtain hold | ⟨hunit, -, hpermitted, -, hnew⟩ := mem_beginSpuWalk ha
  · exact h.spuWalksAllowed a hold
  · exact ⟨hunit, walkAccessAllowed_of_speculative hpermitted hnew⟩

theorem performWalkAccess (h : s.Invariant) (n : Nat) : (s.performWalkAccess n).Invariant := by
  rw [performWalkAccess_eq]
  exact { h with walksAllowed := fun a ha => h.walksAllowed a (mem_performWalkAccess ha) }

theorem performSpuAccess (h : s.Invariant) (n : Nat) : (s.performSpuAccess n).Invariant := by
  rw [performSpuAccess_eq]
  exact { h with spuWalksAllowed := fun a ha => h.spuWalksAllowed a (mem_performSpuAccess ha) }

end State.Invariant

theorem exec_invariant {i : Instr} {s t : State} (hinv : s.Invariant) (h : exec i s = .next t) : t.Invariant := by
  obtain ⟨_, -, rfl⟩ | ⟨-, rfl⟩ := exec_next h
  · exact hinv.completeWalks.advancePc
  · split
    · exact hinv.markSpuWalks.advancePc
    · exact hinv.advancePc

/-- The PE's turn keeps the invariant: its fetch leaves what the invariant speaks of, and the instruction keeps it. -/
theorem instructionTurn_invariant {s t : State} (hinv : s.Invariant) (h : instructionTurn s = .next t) :
    t.Invariant := by
  obtain ⟨i, u, hfetch, hexec⟩ := instructionTurn_next h
  obtain ⟨rfl, -, -⟩ := fetch_ok hfetch
  exact exec_invariant (hinv.afterFetch _) hexec

/-- An access shows an address that its translation allows, or a fault. -/
theorem opAccess_invariant {o : OpenParameters} {va : VA} {s t : State} (hinv : s.Invariant)
    (h : opAccess o va s = .next t) : t.Invariant := by
  obtain ⟨_, rfl, ⟨pa, space, info, rfl, hresult⟩ | ⟨f, rfl, -⟩⟩ := opAccess_next h
  · exact hinv.recordAccess _ (resultAllowed_of_translate hresult)
  · exact hinv.recordAccess _ rfl

/-- Every operation keeps the invariant, whatever the open parameters answer. -/
theorem perform_invariant {o : OpenParameters} {op : Operation} {s t : State} (hinv : s.Invariant)
    (h : perform o op s = .next t) : t.Invariant := by
  cases op with
  | access va => exact opAccess_invariant hinv h
  | accessVia r => exact opAccess_invariant hinv h
  | unitAccess u va => cases h
  | setAddr r va => cases h; exact hinv.writeAddr r va
  | setField f v => obtain ⟨-, -, rfl⟩ := opSetField_next h; exact { hinv with }
  | readField f => obtain ⟨-, rfl⟩ := opReadField_next h; exact hinv.observe (s.regs.fits_read f)
  | readId f => obtain rfl := opReadId_next h; exact hinv.observe rfl
  | setGranule st range g => obtain ⟨-, rfl⟩ := opSetGranule_next h; exact { hinv with }
  | setEnabled st b => obtain ⟨hcontrols, rfl⟩ := opSetEnabled_next h; exact hinv.setEnabled b hcontrols
  | exceptionTo el => obtain ⟨-, hel, rfl⟩ := opExceptionTo_next h; exact hinv.takeException hel
  | exceptionReturn el => obtain ⟨-, hel, rfl⟩ := opExceptionReturn_next h; exact hinv.returnFromException hel
  | setSecurityState ss => cases h; exact { hinv with }
  | memWrite space pa b => obtain ⟨hpa, rfl⟩ := opMemWrite_next h; exact hinv.writeMem space b hpa
  | walkerBegin r va => cases h; exact hinv.beginWalk o r va
  | walkerPerform n => cases h; exact hinv.performWalkAccess n
  | spuSetInUse el b => cases h; exact { hinv with }
  | spuBegin r va => cases h; exact hinv.beginSpuWalk o r va
  | spuPerform n => cases h; exact hinv.performSpuAccess n

/-- Settles O8: a step is the PE's turn or one operation, from a state that differs at most in its schedule, of which
the invariant does not speak, and each keeps every clause. -/
theorem stepKeepsInvariant : Obligations.StepKeepsInvariant := by
  unfold Obligations.StepKeepsInvariant
  intro s t hinv h
  rw [State.inv_iff] at hinv ⊢
  obtain ⟨-, ⟨u, hu, hturn⟩ | ⟨op, rest, -, hop⟩⟩ := step_next h
  · have hinvu : u.Invariant := by rw [hu]; exact { hinv with }
    exact instructionTurn_invariant hinvu hturn
  · exact perform_invariant (s := { s with pending := rest }) { hinv with } hop

end Machine

end Sys2Proof
end

section
/-! SUPPORT. The regime of a context (R175), one equation for each Exception level, and the regime's stage 2 (R82, R164,
R176). -/

namespace Sys2Proof

@[simp] theorem World.world?_ss (w : World) : w.ss.world? = some w := by cases w <;> rfl

/-- A Security state is Root or one of those below EL3. -/
theorem SecurityState.eq_root_or_eq_ss (ss : SecurityState) : ss = .root ∨ ∃ w : World, ss = w.ss := by
  cases ss with
  | root => exact .inl rfl
  | nonSecure => exact .inr ⟨.nonSecure, rfl⟩
  | secure => exact .inr ⟨.secure, rfl⟩
  | realm => exact .inr ⟨.realm, rfl⟩

section Selection

variable {c : Context}

theorem regimeOf_el3 (hel : c.el = .el3) : regimeOf c = some .el3 := by
  simp [regimeOf, hel]

/-- Below EL3, Root selects no regime. -/
theorem regimeOf_root (hss : c.ss = .root) (hel : c.el ≠ .el3) : regimeOf c = none := by
  cases hlevel : c.el with
  | el3 => exact absurd hlevel hel
  | el0 | el1 | el2 => simp [regimeOf, hlevel, hss, SecurityState.world?]

variable {w : World} (hss : c.ss = w.ss)
include hss

theorem regimeOf_el2 (hel : c.el = .el2) :
    regimeOf c =
      if w = .secure ∧ c.eel2 = false then none
      else if c.e2h = true then some (.el20 w) else some (.el2 w) := by
  simp [regimeOf, hel, hss]

theorem regimeOf_el1 (hel : c.el = .el1) : regimeOf c = some (.el10 w) := by
  simp [regimeOf, hel, hss]

theorem regimeOf_el0 (hel : c.el = .el0) :
    regimeOf c =
      if c.e2h = true ∧ c.tge = true then
        if w = .secure ∧ c.eel2 = false then none else some (.el20 w)
      else some (.el10 w) := by
  simp [regimeOf, hel, hss]

end Selection

/-- Everything a context can select: the EL3 regime at EL3, and below it a regime of its own Security state. -/
theorem regimeOf_cases {c : Context} {r : Regime} (h : regimeOf c = some r) :
    (c.el = .el3 ∧ r = .el3) ∨ ∃ w : World, c.ss = w.ss ∧ (r = .el10 w ∨ r = .el20 w ∨ r = .el2 w) := by
  by_cases hel3 : c.el = .el3
  · rw [regimeOf_el3 hel3] at h
    cases h
    exact .inl ⟨hel3, rfl⟩
  obtain hss | ⟨w, hss⟩ := c.ss.eq_root_or_eq_ss
  · rw [regimeOf_root hss hel3] at h
    cases h
  · refine .inr ⟨w, hss, ?_⟩
    cases hel : c.el with
    | el3 => exact absurd hel hel3
    | el2 => rw [regimeOf_el2 hss hel] at h; grind
    | el1 => rw [regimeOf_el1 hss hel] at h; grind
    | el0 => rw [regimeOf_el0 hss hel] at h; grind

/-- A regime of a Security state below EL3 is selected in that state only. -/
theorem ss_of_regimeOf {c : Context} {w : World} {r : Regime} (h : regimeOf c = some r)
    (hr : r = .el10 w ∨ r = .el20 w ∨ r = .el2 w) : c.ss = w.ss := by
  obtain ⟨-, rfl⟩ | ⟨w', hss, hr'⟩ := regimeOf_cases h
  · simp at hr
  · have hw : w' = w := by grind
    rw [hss, hw]

/-- So what a context has to meet for such a regime is its Security state, and the rest within that state. -/
theorem regimeOf_eq_iff_ss_and {c : Context} {w : World} {r : Regime} {p : Prop}
    (hr : r = .el10 w ∨ r = .el20 w ∨ r = .el2 w) (h : c.ss = w.ss → (regimeOf c = some r ↔ p)) :
    regimeOf c = some r ↔ c.ss = w.ss ∧ p := by
  refine ⟨fun hsel => ?_, fun ⟨hss, hp⟩ => (h hss).mpr hp⟩
  have hss : c.ss = w.ss := ss_of_regimeOf hsel hr
  exact ⟨hss, (h hss).mp hsel⟩

theorem regimeOf_eq_el10_iff (c : Context) (w : World) :
    regimeOf c = some (.el10 w) ↔
      c.ss = w.ss ∧ (c.el = .el1 ∨ c.el = .el0 ∧ ¬(c.e2h = true ∧ c.tge = true)) := by
  refine regimeOf_eq_iff_ss_and (.inl rfl) fun hss => ?_
  cases hel : c.el with
  | el3 => simp [regimeOf_el3 hel]
  | el2 => rw [regimeOf_el2 hss hel]; grind
  | el1 => simp [regimeOf_el1 hss hel]
  | el0 => rw [regimeOf_el0 hss hel]; grind

theorem regimeOf_eq_el20_iff (c : Context) (w : World) :
    regimeOf c = some (.el20 w) ↔
      c.ss = w.ss ∧ (w = .secure → c.eel2 = true) ∧
        (c.el = .el2 ∧ c.e2h = true ∨ c.el = .el0 ∧ c.e2h = true ∧ c.tge = true) := by
  refine regimeOf_eq_iff_ss_and (.inr (.inl rfl)) fun hss => ?_
  cases hel : c.el with
  | el3 => simp [regimeOf_el3 hel]
  | el2 => rw [regimeOf_el2 hss hel]; grind
  | el1 => simp [regimeOf_el1 hss hel]
  | el0 => rw [regimeOf_el0 hss hel]; grind

theorem regimeOf_eq_el2_iff (c : Context) (w : World) :
    regimeOf c = some (.el2 w) ↔
      c.ss = w.ss ∧ (w = .secure → c.eel2 = true) ∧ c.e2h = false ∧ c.el = .el2 := by
  refine regimeOf_eq_iff_ss_and (.inr (.inr rfl)) fun hss => ?_
  cases hel : c.el with
  | el3 => simp [regimeOf_el3 hel]
  | el2 => rw [regimeOf_el2 hss hel]; grind
  | el1 => simp [regimeOf_el1 hss hel]
  | el0 => rw [regimeOf_el0 hss hel]; grind

theorem regimeOf_eq_el3_iff (c : Context) : regimeOf c = some .el3 ↔ c.el = .el3 := by
  refine ⟨fun h => ?_, regimeOf_el3⟩
  obtain ⟨hel, -⟩ | ⟨w, -, hr⟩ := regimeOf_cases h
  · exact hel
  · simp at hr

/-- Settles O28: each kind of regime is read off the equations of the Exception levels that select it. -/
theorem regimeSelection : Obligations.RegimeSelection := by
  unfold Obligations.RegimeSelection
  exact fun c w => ⟨regimeOf_eq_el10_iff c w, regimeOf_eq_el20_iff c w, regimeOf_eq_el2_iff c w,
    regimeOf_eq_el3_iff c⟩

theorem hasStage2_eq_false {r : Regime} (h : ∀ w, r ≠ .el10 w) (cfg : Config) (c : Context) :
    hasStage2 cfg r c = false := by
  cases r with
  | el10 w => exact absurd rfl (h w)
  | el20 w | el2 w | el3 => rfl

theorem stage2Of_eq_some_iff (cfg : Config) (r : Regime) (c : Context) (w : World) :
    stage2Of cfg r c = some w ↔ r = .el10 w ∧ hasStage2 cfg r c = true := by
  refine ⟨Machine.stage2Of_some, ?_⟩
  rintro ⟨rfl, hhas⟩
  simp [stage2Of, hhas]

namespace Machine

/-- A disabled stage 2 maps no address: the PA is the OA of stage 1, and the table reads are those of stage 1. -/
theorem translateIn_of_disabled_stage2 {o : OpenParameters} {s : State} {c : Context} {r : Regime} {va oa : Nat}
    {space : PASpace} {level : Option Int} {info : Info}
    (h1 : (translateStage o s c (.one r) va none).result = .ok oa space level info)
    (h2 : ∀ w, s.enabled.get (.two w) = false) :
    ∃ space' info', translateIn o s c r va =
      { result := .ok oa space' info', reads := (translateStage o s c (.one r) va none).reads } := by
  cases hstage : stage2Of s.cfg r c with
  | none => exact ⟨space, info, translateIn_of_no_stage2 h1 hstage⟩
  | some w =>
    obtain ⟨space2, info2, hflat⟩ := translateStage_flat (st := .two w) (ia := oa) o c (some space) (h2 w) nofun
    exact ⟨space2, info2, by rw [translateIn_of_stage2 h1 hstage, hflat, List.append_nil]; rfl⟩

/-- Settles O29: `HasStage2` regime by regime; without EL2 the invariant has every stage 2 disabled, and a disabled
stage 2 maps no address. -/
theorem stage2Existence : Obligations.Stage2Existence := by
  unfold Obligations.Stage2Existence
  refine ⟨fun cfg c => ⟨rfl, rfl, rfl, fun r hr => hasStage2_eq_false hr cfg c,
    fun r w => stage2Of_eq_some_iff cfg r c w⟩, ?withoutEL2⟩
  case withoutEL2 =>
    intro o s c r va oa space level info hinv hel2 h1
    have hinv : s.Invariant := s.inv_iff.mp hinv
    exact translateIn_of_disabled_stage2 h1 fun w => (hinv.noStage2WithoutEL2 hel2 w).1

end Machine

end Sys2Proof
end

section
/-! SUPPORT. Table D8-2 (R221, R222) and the well-formed contexts (R223): below EL3 a context has the pair of its
Security state, and every stage of the regime it selects has what the table requires. -/

namespace Sys2Proof

section Stages

variable {cfg : Config} {c : Context} {r : Regime}

/-- What Table D8-2 requires after stage 1 is what it requires of the stage 2 that follows, if one does. -/
theorem stage2RequirementsHold_iff :
    stage2RequirementsHold cfg r c = true ↔
      ∀ w, stage2Of cfg r c = some w → stageRequirementsHold cfg (.two w) c = true := by
  cases r with
  | el10 w => cases h : hasStage2 cfg (.el10 w) c <;> simp [stage2RequirementsHold, stage2Of, h]
  | el20 w | el2 w | el3 => simp [stage2RequirementsHold, stage2Of]

theorem contextWellFormed_el3_iff (hel : c.el = .el3) :
    contextWellFormed cfg c = true ↔
      implementsEL cfg c.el = true ∧ stageRequirementsHold cfg (.one .el3) c = true := by
  simp [contextWellFormed, hel]

theorem contextWellFormed_below_iff (hel : c.el ≠ .el3) :
    contextWellFormed cfg c = true ↔
      implementsEL cfg c.el = true ∧ (c.nse, c.ns) = c.ss.nsePair ∧
        ∃ r, regimeOf c = some r ∧ stageRequirementsHold cfg (.one r) c = true ∧
          stage2RequirementsHold cfg r c = true := by
  cases hlevel : c.el with
  | el3 => exact absurd hlevel hel
  | el0 | el1 | el2 => cases hr : regimeOf c <;> simp [contextWellFormed, hlevel, hr]

/-- A context at an Exception level that is not implemented is not well formed (D14). -/
theorem contextWellFormed_of_not_implemented (h : implementsEL cfg c.el = false) :
    contextWellFormed cfg c = false := by
  simp [contextWellFormed, h]

/-- In a well-formed context Table D8-2 holds for every stage of the regime that the context selects. -/
theorem stageRequirementsHold_of_contextWellFormed (hwf : contextWellFormed cfg c = true)
    (hr : regimeOf c = some r) :
    stageRequirementsHold cfg (.one r) c = true ∧
      ∀ w, stage2Of cfg r c = some w → stageRequirementsHold cfg (.two w) c = true := by
  by_cases hel : c.el = .el3
  · obtain ⟨-, hone⟩ := (contextWellFormed_el3_iff hel).mp hwf
    obtain rfl : Regime.el3 = r := Option.some.inj ((regimeOf_el3 hel).symm.trans hr)
    exact ⟨hone, nofun⟩
  · obtain ⟨-, -, r', hr', hone, htwo⟩ := (contextWellFormed_below_iff hel).mp hwf
    obtain rfl : r' = r := Option.some.inj (hr'.symm.trans hr)
    exact ⟨hone, stage2RequirementsHold_iff.mp htwo⟩

/-- Where a regime is selected below EL3, the pair {NSE, NS} of the Security state is one of the three of Table D8-2:
Root, whose pair is in no row, selects none. -/
theorem nsePair_eq_iff (hel : c.el ≠ .el3) (hr : regimeOf c = some r) :
    (c.nse, c.ns) = c.ss.nsePair ↔
      c.ss = .nonSecure ∧ c.nse = false ∧ c.ns = true ∨ c.ss = .secure ∧ c.nse = false ∧ c.ns = false ∨
        c.ss = .realm ∧ c.nse = true ∧ c.ns = true := by
  cases hss : c.ss with
  | root => exact absurd (regimeOf_root hss hel) (by simp [hr])
  | nonSecure | secure | realm => simp [SecurityState.nsePair]

end Stages

namespace Machine

/-- A translation that is not refused has a regime, and passed every check before its stages. -/
theorem translate_not_refused {o : OpenParameters} {s : State} {c : Context} {va : VA}
    (h : ∀ x, (translate o s c va).result ≠ .refused x) :
    ∃ r, regimeOf c = some r ∧ translationRefusal s c r = none := by
  cases hr : regimeOf c with
  | none =>
    have hrefused : (translate o s c va).result =
        .refused ((configRefusal s.cfg).getD .contextNotWellFormed) := by simp [translate, hr]
    exact absurd hrefused (h _)
  | some r =>
    refine ⟨r, rfl, Option.eq_none_iff_forall_ne_some.mpr fun x hx => h x ?_⟩
    rw [translate_of_refusal hr hx]

theorem contextRefusal_eq_none_iff {cfg : Config} {c : Context} {r : Regime} :
    contextRefusal cfg c r = none ↔
      contextWellFormed cfg c = true ∧ regimeProvided cfg r = true ∧
        (el0AArch32 cfg c = true → c.ss = .realm → cfg.realmEL0AArch32 = true) := by
  cases hwf : contextWellFormed cfg c <;> cases hp : regimeProvided cfg r <;>
    simp [contextRefusal, hwf, hp]

/-- Settles O31: the rows as they stand in the table; a context is well formed by its Exception level, at EL3 and below
it; and what is not refused passed the check of its context. -/
theorem translatedContextsAreWellFormed : Obligations.TranslatedContextsAreWellFormed := by
  unfold Obligations.TranslatedContextsAreWellFormed
  refine ⟨fun cfg c => ?table, fun o s c va h => ?translated⟩
  case table =>
    refine ⟨?_, ?_, ?_, ?_, ?_, ?_, ?_, ?_, ?_, ?_, ?_, ?_, ?_, rfl, ?wellFormed⟩
    case wellFormed =>
      by_cases hel : c.el = .el3
      · simp [contextWellFormed_el3_iff hel, hel]
      · rw [contextWellFormed_below_iff hel]
        simp only [hel, false_and, false_or, not_false_eq_true, true_and, ne_eq]
        refine and_congr_right fun _ => ?_
        constructor
        · rintro ⟨hpair, r, hr, hone, htwo⟩
          refine ⟨(nsePair_eq_iff hel hr).mp hpair, r, hr, hone, fun w hw hhas => ?_⟩
          exact stage2RequirementsHold_iff.mp htwo w ((stage2Of_eq_some_iff cfg r c w).mpr ⟨hw, hhas⟩)
        · rintro ⟨hpair, r, hr, hone, htwo⟩
          refine ⟨(nsePair_eq_iff hel hr).mpr hpair, r, hr, hone, stage2RequirementsHold_iff.mpr fun w hw => ?_⟩
          obtain ⟨hregime, hhas⟩ := stage2Of_some hw
          exact htwo w hregime hhas
    all_goals simp [stageRequirementsHold, and_assoc]
  case translated =>
    obtain ⟨r, hr, hnone⟩ := translate_not_refused h
    obtain ⟨hcfg, hctx, -⟩ := translationRefusal_none hnone
    obtain ⟨hwf, -, -⟩ := contextRefusal_eq_none_iff.mp hctx
    exact ⟨hwf, decide_eq_true hcfg, r, hr, stageRequirementsHold_of_contextWellFormed hwf hr⟩

end Machine

end Sys2Proof
end

section
/-! SUPPORT. The checks before a translation (R82): what each of them refuses, in their order, and what passes them all
(R220, R223, R279, R169, R226, R227; D13, D14, D17). -/

namespace Sys2Proof

theorem regimeProvided_iff (cfg : Config) (r : Regime) :
    regimeProvided cfg r = true ↔ cfg.haveEL2 = true ∨ (r = .el3 ∧ cfg.haveEL3 = true) ∨
      ∃ w, r = .el10 w ∧ (cfg.haveEL3 = true ∨ w.ss = cfg.soleSecurityState) := by
  cases r <;> simp [regimeProvided]

/-- Without EL2 there is no EL2 and no EL2&0 regime, and without EL3 either, none of another Security state (R220). -/
theorem regimeProvided_eq_false {cfg : Config} {r : Regime} (hel2 : cfg.haveEL2 = false)
    (h : (∀ w, r ≠ .el10 w) ∧ r ≠ .el3 ∨
      ∃ w, r = .el10 w ∧ cfg.haveEL3 = false ∧ w.ss ≠ cfg.soleSecurityState) :
    regimeProvided cfg r = false := by
  rw [← Bool.not_eq_true, regimeProvided_iff]
  obtain ⟨hel10, hel3⟩ | ⟨w, rfl, hel3, hsole⟩ := h
  · rintro (htrue | ⟨hr, -⟩ | ⟨w, hr, -⟩)
    · simp [hel2] at htrue
    · exact hel3 hr
    · exact hel10 w hr
  · simp [hel2, hel3, hsole]

namespace Machine

section Refusals

variable {s : State} {c : Context} {r : Regime}

theorem contextRefusal_of_not_wellFormed {cfg : Config} (h : contextWellFormed cfg c = false) :
    contextRefusal cfg c r = some .contextNotWellFormed := by
  simp [contextRefusal, h]

theorem contextRefusal_of_not_provided {cfg : Config} (hwf : contextWellFormed cfg c = true)
    (h : regimeProvided cfg r = false) : contextRefusal cfg c r = some .regimeNotProvided := by
  simp [contextRefusal, hwf, h]

theorem violatesVMSAv8_iff :
    violatesVMSAv8 s c r = true ↔
      (el0AArch32 s.cfg c = true ∧ usesVMSAv9_128 s (.one r) = true) ∨
        ∃ w, stage2Of s.cfg r c = some w ∧ stage2NeedsVMSAv8 s.cfg w = true ∧
          usesVMSAv9_128 s (.two w) = true := by
  cases hstage : stage2Of s.cfg r c <;> simp [violatesVMSAv8, hstage]

theorem stage2NeedsVMSAv8_iff (cfg : Config) (w : World) :
    stage2NeedsVMSAv8 cfg w = true ↔
      (usesAArch64 cfg w.ss .el1 = false ∨ usesAArch64 cfg w.ss .el0 = false) ∧
        cfg.haveEL2 = true ∧ usesAArch64 cfg w.ss .el2 = true := by
  simp [stage2NeedsVMSAv8, implementsEL]

theorem tcrEL2_oaSize_eq_reserved_iff (s : State) :
    s.regs.tcrEL2.oaSize = 0b111 ↔ s.regs.read (.oaSize .tcrEL2) = 0b111 :=
  BitVec.toNat_inj.symm

/-- The reserved value of TCR_EL2.PS is refused before a broken requirement of AArch32 is. -/
theorem regimeRefusal_of_reserved (hr : ∃ w, r = .el2 w) (h : s.regs.read (.oaSize .tcrEL2) = 0b111) :
    regimeRefusal s c r = some .reservedOASize := by
  obtain ⟨w, rfl⟩ := hr
  simp [regimeRefusal, (tcrEL2_oaSize_eq_reserved_iff s).mpr h]

/-- Where the value of TCR_EL2.PS is not reserved, or not read, only a broken requirement of AArch32 is refused. -/
theorem regimeRefusal_of_not_reserved
    (h : ¬((∃ w, r = .el2 w) ∧ s.regs.read (.oaSize .tcrEL2) = 0b111)) :
    regimeRefusal s c r = if violatesVMSAv8 s c r = true then some .aarch32NeedsVMSAv8 else none := by
  rw [← tcrEL2_oaSize_eq_reserved_iff] at h
  cases r with
  | el2 w =>
    have hps : s.regs.tcrEL2.oaSize ≠ 0b111 := fun he => h ⟨⟨w, rfl⟩, he⟩
    simp only [regimeRefusal, decide_eq_false hps, Bool.false_eq_true, if_false]
  | el10 w | el20 w | el3 => simp [regimeRefusal]

theorem regimeRefusal_eq_none_iff :
    regimeRefusal s c r = none ↔
      ¬((∃ w, r = .el2 w) ∧ s.regs.read (.oaSize .tcrEL2) = 0b111) ∧ violatesVMSAv8 s c r = false := by
  by_cases h : (∃ w, r = .el2 w) ∧ s.regs.read (.oaSize .tcrEL2) = 0b111
  · obtain ⟨hr, hps⟩ := h
    simp [regimeRefusal_of_reserved hr hps, hr, hps]
  · simp [regimeRefusal_of_not_reserved h, h]

variable (hcfg : configRefusal s.cfg = none)
include hcfg

theorem translationRefusal_of_contextRefusal {x : Refusal} (h : contextRefusal s.cfg c r = some x) :
    translationRefusal s c r = some x := by
  simp [translationRefusal, hcfg, h]

theorem translationRefusal_of_no_contextRefusal (h : contextRefusal s.cfg c r = none) :
    translationRefusal s c r = regimeRefusal s c r := by
  simp [translationRefusal, hcfg, h]

theorem translationRefusal_eq_none_iff :
    translationRefusal s c r = none ↔ contextRefusal s.cfg c r = none ∧ regimeRefusal s c r = none := by
  refine ⟨fun h => (translationRefusal_none h).2, fun ⟨hctx, hregime⟩ => ?_⟩
  rw [translationRefusal_of_no_contextRefusal hcfg hctx, hregime]

end Refusals

/-- Settles O32: each refusal is that of the first check that fails, and the list of the last clause is what the checks
of the context and of its regime ask for. -/
theorem regimesAndAccessesRefused : Obligations.RegimesAndAccessesRefused := by
  unfold Obligations.RegimesAndAccessesRefused
  intro o s c va r hwf hr
  have hcfg : configRefusal s.cfg = none := configRefusal_of_wellFormed hwf
  have hrefused {x : Refusal} (h : translationRefusal s c r = some x) :
      (translate o s c va).result = .refused x := by rw [translate_of_refusal hr h]
  refine ⟨fun hctx hel2 hother => ?notProvided, fun hctx hel2 hps => ?reserved,
    fun hel => ?notImplemented, fun _ => rfl, regimeProvided_iff s.cfg r, ?complete⟩
  case notProvided =>
    exact hrefused (translationRefusal_of_contextRefusal hcfg
      (contextRefusal_of_not_provided hctx (regimeProvided_eq_false hel2 hother)))
  case reserved =>
    exact hrefused ((translationRefusal_of_no_contextRefusal hcfg hctx).trans (regimeRefusal_of_reserved hel2 hps))
  case notImplemented =>
    exact hrefused (translationRefusal_of_contextRefusal hcfg
      (contextRefusal_of_not_wellFormed (contextWellFormed_of_not_implemented hel)))
  case complete =>
    rw [translationRefusal_eq_none_iff hcfg, contextRefusal_eq_none_iff, regimeRefusal_eq_none_iff,
      ← Bool.not_eq_true (violatesVMSAv8 s c r), violatesVMSAv8_iff]
    simp only [el0AArch32_iff, stage2NeedsVMSAv8_iff]
    grind

end Machine

end Sys2Proof
end

section
/-! SUPPORT. AArch32 (R226 to R228, R169; D17, log entries 16, 17 and 47): the 32-bit VA of EL0, and the stages that
have to use VMSAv8-64. -/

namespace Sys2Proof

/-- In Realm state EL1 and EL2 use AArch64 (log entry 17); any other level uses what the configuration says. -/
theorem usesAArch64_eq (cfg : Config) (ss : SecurityState) (el : EL) :
    usesAArch64 cfg ss el =
      (decide (ss = .realm ∧ (el = .el1 ∨ el = .el2)) || cfg.usesAArch64.get el) := by
  cases ss with
  | realm => cases el <;> rfl
  | nonSecure | secure | root => simp [usesAArch64]

/-- A VA below 2^32 has bit 55 clear, so that it is never in an upper range. -/
theorem selectRange_ne_upper_of_lt (r : Regime) {va : Nat} (h : va < 2 ^ 32) : selectRange r va ≠ .upper := by
  have hbit : va.testBit 55 = false := Nat.testBit_lt_two_pow (h.trans (by decide))
  cases htwo : twoVARanges r <;> simp [selectRange, htwo, hbit]

namespace Machine

/-- A translation depends on its VA through the address that the access uses. -/
theorem translate_congr_accessAddress {s : State} {c : Context} {va va' : VA} (o : OpenParameters)
    (h : accessAddress s.cfg c va = accessAddress s.cfg c va') : translate o s c va = translate o s c va' := by
  unfold translate
  rw [h]

theorem accessAddress_low32 {cfg : Config} {c : Context} (h : el0AArch32 cfg c = true) (va : VA) :
    accessAddress cfg c va = accessAddress cfg c (BitVec.ofNat 64 (va.toNat % 2 ^ 32)) := by
  simp only [accessAddress, h, if_true, BitVec.toNat_ofNat]
  omega

theorem contextRefusal_of_realmEL0AArch32 {cfg : Config} {c : Context} {r : Regime}
    (hwf : contextWellFormed cfg c = true) (hp : regimeProvided cfg r = true) (h32 : el0AArch32 cfg c = true)
    (hss : c.ss = .realm) (h : cfg.realmEL0AArch32 = false) :
    contextRefusal cfg c r = some .realmEL0AArch32 := by
  simp [contextRefusal, hwf, hp, h32, hss, h]

/-- No stage of an EL2 regime can break a requirement of AArch32: its stage 1 never uses VMSAv9-128 (R72), and it has no
stage 2 (R164). -/
theorem ne_el2_of_violatesVMSAv8 {s : State} {c : Context} {r : Regime} (h : violatesVMSAv8 s c r = true) :
    ¬ ∃ w, r = .el2 w := by
  rintro ⟨w, rfl⟩
  obtain ⟨-, hone⟩ | ⟨w', htwo, -, -⟩ := violatesVMSAv8_iff.mp h
  · simp [usesVMSAv9_128_of_no_d128Control (s := s) (st := .one (.el2 w)) rfl] at hone
  · cases htwo

/-- So the requirement is what the translation is refused for, once its context passes. -/
theorem translate_of_violatesVMSAv8 {s : State} {c : Context} {r : Regime} (o : OpenParameters) (va : VA)
    (hwf : s.cfg.wellFormed = true) (hr : regimeOf c = some r) (hctx : contextRefusal s.cfg c r = none)
    (h : violatesVMSAv8 s c r = true) : (translate o s c va).result = .refused .aarch32NeedsVMSAv8 := by
  have hregime : regimeRefusal s c r = some .aarch32NeedsVMSAv8 := by
    rw [regimeRefusal_of_not_reserved (fun ⟨hel2, _⟩ => ne_el2_of_violatesVMSAv8 h hel2), if_pos h]
  rw [translate_of_refusal hr
    ((translationRefusal_of_no_contextRefusal (configRefusal_of_wellFormed hwf) hctx).trans hregime)]

/-- Settles O33: both requirements of VMSAv8-64 are clauses of one check, which refuses what breaks either; the rest is
the address of the access and the check of its context. -/
theorem aarch32NeedsVMSAv8 : Obligations.AArch32NeedsVMSAv8 := by
  unfold Obligations.AArch32NeedsVMSAv8
  intro o s c va r hwf hr
  refine ⟨fun hel h32 => ?fromEL0, usesAArch64_eq s.cfg, fun w hstage hctx hlevel hel2 haarch64 hv9 => ?stage2⟩
  case fromEL0 =>
    have hel0 : el0AArch32 s.cfg c = true := (el0AArch32_iff s.cfg c).mpr ⟨hel, h32⟩
    refine ⟨translate_congr_accessAddress o (accessAddress_low32 hel0 va),
      selectRange_ne_upper_of_lt r (Nat.mod_lt _ (by decide)), fun hctx hv9 => ?stage1,
      fun hss hsupport hcontext hprovided => ?realm⟩
    case stage1 => exact translate_of_violatesVMSAv8 o va hwf hr hctx (violatesVMSAv8_iff.mpr (.inl ⟨hel0, hv9⟩))
    case realm =>
      rw [translate_of_refusal hr (translationRefusal_of_contextRefusal (configRefusal_of_wellFormed hwf)
        (contextRefusal_of_realmEL0AArch32 hcontext hprovided hel0 hss hsupport))]
  case stage2 =>
    have hneeds : stage2NeedsVMSAv8 s.cfg w = true :=
      (stage2NeedsVMSAv8_iff s.cfg w).mpr ⟨hlevel, hel2, haarch64⟩
    exact translate_of_violatesVMSAv8 o va hwf hr hctx (violatesVMSAv8_iff.mpr (.inr ⟨w, hstage, hneeds, hv9⟩))

end Machine

end Sys2Proof
end

section
/-! SUPPORT. The next states of DSB and PSB (R254 to R257): what each does to the walk accesses in flight, and which of
the profiling unit's a DSB leaves (log entries 5, 21, 22, 43). -/

namespace Sys2Proof.Machine

theorem exec_dsb (crm : BitVec 4) (s : State) : exec (.dsb crm) s = .next s.completeWalks.advancePc := rfl

/-- The state after a PSB. -/
def State.afterPsb (s : State) : State := (if s.cfg.haveSPU then s.markSpuWalks else s).advancePc

theorem exec_psb (s : State) : exec .psb s = .next s.afterPsb := rfl

/-- Every access of the PE's walker that was in flight has been performed once the walks are completed. -/
theorem State.read_mem_completeWalks_performed {s : State} {a : WalkAccess} (ha : a ∈ s.inFlight) :
    a.read ∈ s.completeWalks.performed :=
  List.mem_append_left _ (List.mem_append_right _ (List.mem_map_of_mem ha))

/-- So has every access of the profiling unit that the DSB covers. -/
theorem State.spuRead_mem_completeWalks_performed {s : State} {a : SpuAccess} (ha : a ∈ s.spuWalks)
    (hcovers : s.dsbCovers a = true) : a.access.read ∈ s.completeWalks.performed :=
  List.mem_append_right _ (List.mem_map_of_mem (f := fun a : SpuAccess => a.access.read)
    (List.mem_filter.mpr ⟨ha, hcovers⟩))

/-- What is left in flight of the profiling unit is what the DSB does not cover. -/
theorem State.mem_completeWalks_spuWalks_iff {s : State} {a : SpuAccess} :
    a ∈ s.completeWalks.spuWalks ↔ a ∈ s.spuWalks ∧ s.dsbCovers a = false := by
  simp

/-- A DSB covers no unmarked access of a level at which the unit is in use, or of a level that is not lower. -/
theorem State.dsbCovers_eq_false {s : State} {a : SpuAccess} (hmark : a.marked = false)
    (h : s.el.num ≤ a.access.el.num ∨ s.cfg.haveSPU = true ∧ s.spuInUse.get a.access.el = true) :
    s.dsbCovers a = false := by
  rw [← Bool.not_eq_true, State.dsbCovers_iff]
  rintro (hmarked | ⟨hlower, hunused⟩)
  · simp [hmark] at hmarked
  · obtain hle | hused := h
    · exact Nat.not_lt_of_le hle hlower
    · exact hunused hused

theorem SpuAccess.markBelow_eq (el : EL) (a : SpuAccess) :
    SpuAccess.markBelow el a = { a with marked := a.marked || decide (a.access.el.num < el.num) } := by
  by_cases h : a.access.el.num < el.num <;> simp [SpuAccess.markBelow, h]

/-- Settles O9: the completion of the walks leaves the walker's list empty and records what was in it. -/
theorem dsbCompletesWalkAccesses : Obligations.DsbCompletesWalkAccesses := by
  unfold Obligations.DsbCompletesWalkAccesses
  exact fun crm s => ⟨_, exec_dsb crm s, rfl, fun _ ha => State.read_mem_completeWalks_performed ha⟩

/-- Settles O10: the next state is the completion of the walks with the PC moved on, and an access that the DSB does
not cover stays in the unit's list. -/
theorem dsbNextState : Obligations.DsbNextState := by
  unfold Obligations.DsbNextState
  intro crm s
  refine ⟨exec_dsb crm s, fun a ha hmark hleft => ⟨_, exec_dsb crm s, ?_⟩⟩
  exact State.mem_completeWalks_spuWalks_iff.mpr ⟨ha, State.dsbCovers_eq_false hmark hleft⟩

/-- Settles O11: with the unit each of its accesses is marked if it was made below the current level; without it only
the PC moves. -/
theorem psbNextState : Obligations.PsbNextState := by
  unfold Obligations.PsbNextState
  intro s
  have hmarks : SpuAccess.markBelow s.el = _ := funext (SpuAccess.markBelow_eq s.el)
  rw [exec_psb, State.afterPsb, State.markSpuWalks, hmarks]
  split <;> rfl

end Sys2Proof.Machine
end

section
/-! SUPPORT. The walker agent and the profiling unit (R251, R252, R255, R256, R261): where a walk may begin, and the
next state of each of their moves. -/

namespace Sys2Proof.Machine

/-! ### Where a walk may begin -/

theorem walkPermitted_iff (el : EL) (r : Regime) :
    walkPermitted el r = true ↔
      el = .el0 ∨ el = .el1 ∨ el = .el2 ∧ (∀ w, r ≠ .el10 w) ∨ el = .el3 ∧ r = .el3 := by
  cases el <;> cases r <;> simp [walkPermitted]

/-! ### The next state of each move -/

theorem State.beginWalk_of_permitted {s : State} {r : Regime} (h : walkPermitted s.el r = true)
    (o : OpenParameters) (va : VA) :
    s.beginWalk o r va = { s with inFlight := s.inFlight ++ speculativeAccesses o s r va } :=
  if_pos h

theorem State.beginWalk_of_not_permitted {s : State} {r : Regime} (h : walkPermitted s.el r = false)
    (o : OpenParameters) (va : VA) : s.beginWalk o r va = s :=
  if_neg (Bool.not_eq_true _ ▸ h)

/-- A speculative walk has one access for each table read of the translation. -/
theorem speculativeAccesses_map_read (o : OpenParameters) (s : State) (r : Regime) (va : VA) :
    (speculativeAccesses o s r va).map (fun a => a.read) =
      (translateIn o s (s.walkerContext r) r va.toNat).reads := by
  simp [speculativeAccesses, Function.comp_def]

theorem State.performWalkAccess_of_some {s : State} {n : Nat} {a : WalkAccess} (h : s.inFlight[n]? = some a) :
    s.performWalkAccess n =
      { s with inFlight := s.inFlight.eraseIdx n, performed := s.performed ++ [a.read] } := by
  simp [State.performWalkAccess, h]

theorem State.performWalkAccess_of_length_le {s : State} {n : Nat} (h : s.inFlight.length ≤ n) :
    s.performWalkAccess n = s := by
  simp [State.performWalkAccess, List.getElem?_eq_none h]

theorem State.performSpuAccess_of_some {s : State} {n : Nat} {a : SpuAccess} (h : s.spuWalks[n]? = some a) :
    s.performSpuAccess n =
      { s with spuWalks := s.spuWalks.eraseIdx n, performed := s.performed ++ [a.access.read] } := by
  simp [State.performSpuAccess, h]

theorem State.performSpuAccess_of_length_le {s : State} {n : Nat} (h : s.spuWalks.length ≤ n) :
    s.performSpuAccess n = s := by
  simp [State.performSpuAccess, List.getElem?_eq_none h]

/-- Where a walk is begun for the profiling unit: it is implemented and in use, and the regime may be walked. -/
theorem State.spuMayBegin_iff (s : State) (r : Regime) :
    (s.spuUsedAt s.el && walkPermitted s.el r) = true ↔
      s.cfg.haveSPU = true ∧ s.spuInUse.get s.el = true ∧ walkPermitted s.el r = true := by
  simp [State.spuUsedAt, and_assoc]

theorem State.beginSpuWalk_of_may {s : State} {r : Regime}
    (h : s.cfg.haveSPU = true ∧ s.spuInUse.get s.el = true ∧ walkPermitted s.el r = true)
    (o : OpenParameters) (va : VA) :
    s.beginSpuWalk o r va =
      { s with
        spuWalks := s.spuWalks ++
          (speculativeAccesses o s r va).map fun a => { access := a, marked := false } } :=
  if_pos ((s.spuMayBegin_iff r).mpr h)

theorem State.beginSpuWalk_of_may_not {s : State} {r : Regime}
    (h : ¬(s.cfg.haveSPU = true ∧ s.spuInUse.get s.el = true ∧ walkPermitted s.el r = true))
    (o : OpenParameters) (va : VA) : s.beginSpuWalk o r va = s :=
  if_neg (mt (s.spuMayBegin_iff r).mp h)

/-- The accesses that a speculative walk adds to those in flight. -/
def addedAccesses (o : OpenParameters) (s : State) (r : Regime) (va : VA) : List WalkAccess :=
  if walkPermitted s.el r then speculativeAccesses o s r va else []

theorem State.beginWalk_eq_append (o : OpenParameters) (s : State) (r : Regime) (va : VA) :
    s.beginWalk o r va = { s with inFlight := s.inFlight ++ addedAccesses o s r va } := by
  cases h : walkPermitted s.el r with
  | true => simp [State.beginWalk_of_permitted h, addedAccesses, h]
  | false => simp [State.beginWalk_of_not_permitted h, addedAccesses, h]

theorem mem_addedAccesses {o : OpenParameters} {s : State} {r : Regime} {va : VA} {a : WalkAccess}
    (h : a ∈ addedAccesses o s r va) : a.regime = r ∧ a.el = s.el := by
  unfold addedAccesses at h
  split at h
  · obtain ⟨hel, hregime, -⟩ := mem_speculativeAccesses h
    exact ⟨hregime, hel⟩
  · cases h

/-- Settles O15: what is added is the speculative walk where the regime may be walked, and nothing elsewhere; the
context of the walk is read off the regime. -/
theorem speculativeWalkOnlyAddsAccesses : Obligations.SpeculativeWalkOnlyAddsAccesses := by
  unfold Obligations.SpeculativeWalkOnlyAddsAccesses
  intro o s r va
  have hnext : perform o (.walkerBegin r va) s =
      .next { s with inFlight := s.inFlight ++ addedAccesses o s r va } :=
    congrArg Host.Outcome.next (s.beginWalk_eq_append o r va)
  refine ⟨_, hnext, fun hpermitted => ?permitted, fun hforbidden => if_neg (by simp [hforbidden]),
    fun _ => mem_addedAccesses, walkPermitted_iff s.el r, fun w => ⟨rfl, rfl, rfl, rfl⟩⟩
  case permitted =>
    have hadded : addedAccesses o s r va = speculativeAccesses o s r va := if_pos hpermitted
    exact ⟨hadded, hadded ▸ speculativeAccesses_map_read o s r va⟩

/-- Settles O16: each of the two moves takes the access at its place in its own list, if there is one. -/
theorem performedAccessesLeaveFlight : Obligations.PerformedAccessesLeaveFlight := by
  unfold Obligations.PerformedAccessesLeaveFlight
  intro o s n
  have hwalker : perform o (.walkerPerform n) s = .next (s.performWalkAccess n) := rfl
  have hunit : perform o (.spuPerform n) s = .next (s.performSpuAccess n) := rfl
  rw [hwalker, hunit]
  exact ⟨fun _ ha => congrArg _ (State.performWalkAccess_of_some ha),
    fun hn => congrArg _ (State.performWalkAccess_of_length_le hn),
    fun _ ha => congrArg _ (State.performSpuAccess_of_some ha),
    fun hn => congrArg _ (State.performSpuAccess_of_length_le hn)⟩

/-- Settles O17: the use is one entry of the table of levels, and a walk of the unit begins exactly where the three
conditions hold. -/
theorem profilingUnitWalks : Obligations.ProfilingUnitWalks := by
  unfold Obligations.ProfilingUnitWalks
  intro o s r va el b
  have hset : perform o (.spuSetInUse el b) s = .next { s with spuInUse := s.spuInUse.set el b } := rfl
  have hbegin : perform o (.spuBegin r va) s = .next (s.beginSpuWalk o r va) := rfl
  rw [hbegin]
  exact ⟨⟨_, hset, s.spuInUse.get_set_same el b, fun _ hne => s.spuInUse.get_set_ne b hne⟩,
    fun hmay => congrArg _ (State.beginSpuWalk_of_may hmay o va),
    fun hmay => congrArg _ (State.beginSpuWalk_of_may_not hmay o va)⟩

end Sys2Proof.Machine
end

section
/-! SUPPORT. An exception and then the barriers (R253 to R257): what a DSB does once it covers every walk access of the
lower levels, because the profiling unit is not in use there or because a PSB has marked them (log entries 21, 22,
43). -/

namespace Sys2Proof.Machine

theorem opExceptionTo_of_higher {s : State} {target : EL} (hhigher : s.el.num < target.num)
    (himpl : implementsEL s.cfg target = true) :
    opExceptionTo target s = .next (s.takeException target) := by
  simp [opExceptionTo, Nat.not_le_of_lt hhigher, himpl]

/-- In `u` no access that `s` had in flight for a level below `el` is in flight, nor any of the walker's, and all of
them have been performed. -/
def LowerWalksCompleted (el : EL) (s u : State) : Prop :=
  u.inFlight = [] ∧ (∀ a ∈ u.spuWalks, ¬ a.access.el.num < el.num) ∧
    (∀ a ∈ s.inFlight, a.read ∈ u.performed) ∧
    ∀ a ∈ s.spuWalks, a.access.el.num < el.num → a.access.read ∈ u.performed

/-- A DSB completes the walks of the lower levels if it covers those of the profiling unit. -/
theorem lowerWalksCompleted_completeWalks {el : EL} {s : State}
    (hcovers : ∀ a ∈ s.spuWalks, a.access.el.num < el.num → s.dsbCovers a = true) :
    LowerWalksCompleted el s s.completeWalks.advancePc := by
  refine ⟨rfl, fun a ha hlower => ?left, fun _ => State.read_mem_completeWalks_performed,
    fun _ ha hlower => State.spuRead_mem_completeWalks_performed ha (hcovers _ ha hlower)⟩
  case left =>
    obtain ⟨hmem, huncovered⟩ := State.mem_completeWalks_spuWalks_iff.mp ha
    simp [hcovers a hmem hlower] at huncovered

theorem State.afterPsb_inFlight (s : State) : s.afterPsb.inFlight = s.inFlight := by
  unfold State.afterPsb; split <;> rfl

/-- A PSB takes no access of the profiling unit out of flight. -/
theorem State.mem_afterPsb_spuWalks {s : State} {a : SpuAccess} (ha : a ∈ s.spuWalks) :
    ∃ b ∈ s.afterPsb.spuWalks, b.access = a.access := by
  unfold State.afterPsb
  split
  · exact ⟨_, List.mem_map_of_mem ha, markBelow_access s.el a⟩
  · exact ⟨a, ha, rfl⟩

/-- After a PSB a DSB covers every access of the profiling unit made at a lower level: where the unit is implemented
the access is marked, and otherwise it is in use nowhere. -/
theorem State.dsbCovers_afterPsb {s : State} {a : SpuAccess} (ha : a ∈ s.afterPsb.spuWalks)
    (hlower : a.access.el.num < s.el.num) : s.afterPsb.dsbCovers a = true := by
  rw [State.dsbCovers_iff]
  cases hunit : s.cfg.haveSPU with
  | true =>
    simp only [State.afterPsb, hunit, if_true, State.advancePc_spuWalks, State.markSpuWalks_spuWalks] at ha
    obtain ⟨b, -, rfl⟩ := List.mem_map.mp ha
    rw [markBelow_access] at hlower
    simp [SpuAccess.markBelow_eq, hlower]
  | false => simp [State.afterPsb, hunit, hlower]

/-- A PSB and then a DSB complete the walks of the lower levels, wherever the profiling unit is in use. -/
theorem lowerWalksCompleted_afterPsb (s : State) :
    LowerWalksCompleted s.el s s.afterPsb.completeWalks.advancePc := by
  obtain ⟨hnone, hleft, hwalks, hspu⟩ := lowerWalksCompleted_completeWalks (el := s.el) (s := s.afterPsb)
    fun _ => State.dsbCovers_afterPsb
  refine ⟨hnone, hleft, fun a ha => hwalks a (s.afterPsb_inFlight ▸ ha), fun a ha hlower => ?_⟩
  obtain ⟨b, hb, hba⟩ := State.mem_afterPsb_spuWalks ha
  rw [← hba] at hlower ⊢
  exact hspu b hb hlower

/-- Settles O12: the exception keeps every access in flight and makes the target the current level; from there a DSB
covers the unit's accesses of lower levels where the unit is not in use, and after a PSB it covers them all. -/
theorem exceptionThenBarriersCompleteLowerWalks : Obligations.ExceptionThenBarriersCompleteLowerWalks := by
  unfold Obligations.ExceptionThenBarriersCompleteLowerWalks
  intro o s target crm hhigher himpl
  have htaken : perform o (.exceptionTo target) s = .next (s.takeException target) :=
    opExceptionTo_of_higher hhigher himpl
  refine ⟨fun hunused => ⟨_, _, htaken, exec_dsb crm _, ?dsb⟩,
    _, _, _, htaken, exec_psb _, exec_dsb crm _, lowerWalksCompleted_afterPsb (s.takeException target)⟩
  case dsb =>
    refine lowerWalksCompleted_completeWalks (s := s.takeException target) fun a ha hlower => ?_
    refine (State.dsbCovers_iff _ a).mpr (.inr ⟨hlower, fun ⟨hunit, hused⟩ => ?_⟩)
    exact Bool.false_ne_true ((hunused a ha hlower hunit).symm.trans hused)

end Sys2Proof.Machine
end

section
/-! SUPPORT. Which walks a step begins (R251, R252, R261): each instruction and each operation adds to the two lists of
accesses in flight only accesses of regimes that may be walked at the level it starts from. -/

namespace Sys2Proof.Machine

/-- Every walk access in flight in `t` was in flight in `s`, or is of a regime that may be walked at the level of `s`.
An access of the profiling unit may have been marked in between. -/
structure BeginsOnlyPermitted (s t : State) : Prop where
  walks : ∀ a ∈ t.inFlight, a ∈ s.inFlight ∨ walkPermitted s.el a.regime = true
  spuWalks : ∀ a ∈ t.spuWalks,
    (∃ b ∈ s.spuWalks, b.access = a.access) ∨ walkPermitted s.el a.access.regime = true

namespace BeginsOnlyPermitted

/-- What leaves both lists alone begins no walk. -/
theorem of_eq {s t : State} (hwalks : t.inFlight = s.inFlight) (hspu : t.spuWalks = s.spuWalks) :
    BeginsOnlyPermitted s t where
  walks _ ha := .inl (hwalks ▸ ha)
  spuWalks a ha := .inl ⟨a, hspu ▸ ha, rfl⟩

theorem writeAddr (s : State) (r : AddrReg) (va : VA) : BeginsOnlyPermitted s (s.writeAddr r va) := by
  rw [State.writeAddr_eq]
  exact of_eq rfl rfl

theorem completeWalks (s : State) : BeginsOnlyPermitted s s.completeWalks where
  walks _ ha := absurd ha List.not_mem_nil
  spuWalks a ha := .inl ⟨a, List.mem_of_mem_filter ha, rfl⟩

theorem markSpuWalks (s : State) : BeginsOnlyPermitted s s.markSpuWalks where
  walks _ ha := .inl ha
  spuWalks a ha := by
    obtain ⟨b, hb, rfl⟩ := List.mem_map.mp ha
    exact .inl ⟨b, hb, (markBelow_access s.el b).symm⟩

theorem beginWalk (o : OpenParameters) (s : State) (r : Regime) (va : VA) :
    BeginsOnlyPermitted s (s.beginWalk o r va) where
  walks a ha := by
    obtain hold | ⟨hpermitted, hnew⟩ := mem_beginWalk ha
    · exact .inl hold
    · obtain ⟨-, rfl, -⟩ := mem_speculativeAccesses hnew
      exact .inr hpermitted
  spuWalks a ha := by
    rw [beginWalk_eq] at ha
    exact .inl ⟨a, ha, rfl⟩

theorem performWalkAccess (s : State) (n : Nat) : BeginsOnlyPermitted s (s.performWalkAccess n) where
  walks _ ha := .inl (mem_performWalkAccess ha)
  spuWalks a ha := by
    rw [performWalkAccess_eq] at ha
    exact .inl ⟨a, ha, rfl⟩

theorem beginSpuWalk (o : OpenParameters) (s : State) (r : Regime) (va : VA) :
    BeginsOnlyPermitted s (s.beginSpuWalk o r va) where
  walks _ ha := by
    rw [beginSpuWalk_eq] at ha
    exact .inl ha
  spuWalks a ha := by
    obtain hold | ⟨-, -, hpermitted, -, hnew⟩ := mem_beginSpuWalk ha
    · exact .inl ⟨a, hold, rfl⟩
    · obtain ⟨-, rfl, -⟩ := mem_speculativeAccesses hnew
      exact .inr hpermitted

theorem performSpuAccess (s : State) (n : Nat) : BeginsOnlyPermitted s (s.performSpuAccess n) where
  walks _ ha := by
    rw [performSpuAccess_eq] at ha
    exact .inl ha
  spuWalks a ha := .inl ⟨a, mem_performSpuAccess ha, rfl⟩

end BeginsOnlyPermitted

theorem exec_beginsOnlyPermitted {i : Instr} {s t : State} (h : exec i s = .next t) :
    BeginsOnlyPermitted s t := by
  obtain ⟨_, -, rfl⟩ | ⟨-, rfl⟩ := exec_next h
  · exact { BeginsOnlyPermitted.completeWalks s with }
  · split
    · exact { BeginsOnlyPermitted.markSpuWalks s with }
    · exact .of_eq rfl rfl

/-- The PE's turn begins no walk that may not be made: its fetch leaves both lists, and the level. -/
theorem instructionTurn_beginsOnlyPermitted {s t : State} (h : instructionTurn s = .next t) :
    BeginsOnlyPermitted s t := by
  obtain ⟨i, u, hfetch, hexec⟩ := instructionTurn_next h
  obtain ⟨rfl, -, -⟩ := fetch_ok hfetch
  exact { exec_beginsOnlyPermitted hexec with }

theorem opAccess_beginsOnlyPermitted {o : OpenParameters} {va : VA} {s t : State}
    (h : opAccess o va s = .next t) : BeginsOnlyPermitted s t := by
  obtain ⟨r, rfl, -⟩ := opAccess_next h
  exact .of_eq rfl rfl

/-- Only the two operations that begin a walk add an access, and both ask whether the walk is permitted. -/
theorem perform_beginsOnlyPermitted {o : OpenParameters} {op : Operation} {s t : State}
    (h : perform o op s = .next t) : BeginsOnlyPermitted s t := by
  cases op with
  | access va => exact opAccess_beginsOnlyPermitted h
  | accessVia r => exact opAccess_beginsOnlyPermitted h
  | unitAccess u va => cases h
  | setAddr r va => cases h; exact .writeAddr s r va
  | setField f v => obtain ⟨-, -, rfl⟩ := opSetField_next h; exact .of_eq rfl rfl
  | readField f => obtain ⟨-, rfl⟩ := opReadField_next h; exact .of_eq rfl rfl
  | readId f => obtain rfl := opReadId_next h; exact .of_eq rfl rfl
  | setGranule st range g => obtain ⟨-, rfl⟩ := opSetGranule_next h; exact .of_eq rfl rfl
  | setEnabled st b => obtain ⟨-, rfl⟩ := opSetEnabled_next h; exact .of_eq rfl rfl
  | exceptionTo el => obtain ⟨-, -, rfl⟩ := opExceptionTo_next h; exact .of_eq rfl rfl
  | exceptionReturn el => obtain ⟨-, -, rfl⟩ := opExceptionReturn_next h; exact .of_eq rfl rfl
  | setSecurityState ss => cases h; exact .of_eq rfl rfl
  | memWrite space pa b => obtain ⟨-, rfl⟩ := opMemWrite_next h; exact .of_eq rfl rfl
  | walkerBegin r va => cases h; exact .beginWalk o s r va
  | walkerPerform n => cases h; exact .performWalkAccess s n
  | spuSetInUse el b => cases h; exact .of_eq rfl rfl
  | spuBegin r va => cases h; exact .beginSpuWalk o s r va
  | spuPerform n => cases h; exact .performSpuAccess s n

theorem step_beginsOnlyPermitted {s t : State} (h : step s = .next t) : BeginsOnlyPermitted s t := by
  obtain ⟨-, ⟨u, hu, hturn⟩ | ⟨op, rest, -, hop⟩⟩ := step_next h
  · have hbegins : BeginsOnlyPermitted u t := instructionTurn_beginsOnlyPermitted hturn
    rw [hu] at hbegins
    exact { hbegins with }
  · exact { perform_beginsOnlyPermitted hop with }

/-- A regime that may not be walked at the level of `s` has no new walk access after the step. -/
theorem BeginsOnlyPermitted.of_not_permitted {s t : State} (h : BeginsOnlyPermitted s t) {p : Regime → Prop}
    (hp : ∀ r, p r → walkPermitted s.el r = false) :
    (∀ a ∈ t.inFlight, p a.regime → a ∈ s.inFlight) ∧
      ∀ a ∈ t.spuWalks, p a.access.regime → ∃ b ∈ s.spuWalks, b.access = a.access :=
  ⟨fun a ha hr => (h.walks a ha).resolve_right (by simp [hp _ hr]),
    fun a ha hr => (h.spuWalks a ha).resolve_right (by simp [hp _ hr])⟩

/-- At EL2 and EL3 no EL1&0 regime may be walked (R251). -/
theorem walkPermitted_el10 {el : EL} (hel : el = .el2 ∨ el = .el3) (w : World) :
    walkPermitted el (.el10 w) = false := by
  obtain rfl | rfl := hel <;> rfl

/-- At EL3 no EL2 and no EL2&0 regime may be walked (R252). -/
theorem walkPermitted_el2_or_el20 {r : Regime} {w : World} (hr : r = .el2 w ∨ r = .el20 w) :
    walkPermitted .el3 r = false := by
  obtain rfl | rfl := hr <;> rfl

/-- Settles O14: a step adds accesses of permitted walks only, and the out-of-context regimes permit none. -/
theorem noOutOfContextWalkBegins : Obligations.NoOutOfContextWalkBegins := by
  unfold Obligations.NoOutOfContextWalkBegins
  intro s t hstep w
  have hbegins : BeginsOnlyPermitted s t := step_beginsOnlyPermitted hstep
  refine ⟨fun hel => hbegins.of_not_permitted (p := (· = .el10 w)) ?el10,
    fun hel => hbegins.of_not_permitted (p := fun r => r = .el2 w ∨ r = .el20 w) ?el2⟩
  case el10 => rintro _ rfl; exact walkPermitted_el10 hel w
  case el2 => intro r hr; rw [hel]; exact walkPermitted_el2_or_el20 hr

end Sys2Proof.Machine
end

section
/-! SUPPORT. Out-of-context fields (R260, R27, R175): what setting a field leaves, of the view of the registers that a
stage 1 has whose row of Table D8-3 lacks the field's register, and of the context at EL2 and EL3 (log entries 9, 10,
24). -/

namespace Sys2Proof

/-! ### The registers of a stage's row -/

theorem SysReg.reg_of_mem_fields {r : SysReg} : ∀ f ∈ r.fields, f.reg = r := by
  cases r <;> decide

/-- Setting a field leaves every field of another register. -/
theorem SysRegs.read_write_of_reg_ne (r : SysRegs) {f g : SysField} (v : Nat) (h : g.reg ≠ f.reg) :
    (r.write f v).read g = r.read g :=
  r.read_write_ne v fun e => h (by rw [e])

/-- The TnSZ of a stage 1 is in a register of the stage's row. -/
theorem tnszField_reg_mem (r : Regime) (range : VARange) :
    (tnszField r range).reg ∈ controllingRegisters (.one r) := by
  cases r with
  | el10 w | el20 w | el2 w => cases w <;> cases range <;> decide
  | el3 => cases range <;> decide

/-- What a walk of a stage depends on is in the registers of the stage's row. -/
theorem reg_mem_of_mem_walkFields {st : Stage} {range : VARange} {inSpace : Option PASpace} {f : SysField}
    (h : f ∈ walkFields st range inSpace) : f.reg ∈ controllingRegisters st := by
  obtain ⟨r, hr, hf⟩ := List.mem_flatMap.mp (List.mem_of_mem_filter h)
  rwa [SysReg.reg_of_mem_fields f hf]

theorem tcrEL2_mem_controllingRegisters_el2 (w : World) : .tcrEL2 ∈ controllingRegisters (.one (.el2 w)) := by
  cases w <;> decide

/-! ### Contexts at EL2 and EL3 that differ in HCR_EL2 -/

/-- Two contexts at EL2 or EL3 that differ in TGE at most, and at EL3 in E2H too. -/
structure Context.DifferInHcr (c c' : Context) : Prop where
  level : c.el = .el2 ∨ c.el = .el3
  el : c'.el = c.el
  ss : c'.ss = c.ss
  eel2 : c'.eel2 = c.eel2
  nse : c'.nse = c.nse
  ns : c'.ns = c.ns
  e2h : c.el = .el2 → c'.e2h = c.e2h

namespace Context.DifferInHcr

variable {c c' : Context} (h : c.DifferInHcr c')
include h

theorem el_ne_el0 : c.el ≠ .el0 := by
  obtain hel | hel := h.level <;> simp [hel]

/-- They select one regime: TGE selects one at EL0 only, and at EL3 there is one regime alone. -/
theorem regimeOf_eq : regimeOf c' = regimeOf c := by
  obtain hel2 | hel3 := h.level
  · simp only [regimeOf, h.el, hel2, h.ss, h.eel2, h.e2h hel2]
  · rw [regimeOf_el3 hel3, regimeOf_el3 (h.el.trans hel3)]

/-- The regime is not one that has a stage 2. -/
theorem ne_el10 {r : Regime} (hr : regimeOf c = some r) (w : World) : r ≠ .el10 w := by
  rintro rfl
  obtain ⟨-, hel | ⟨hel, -⟩⟩ := (regimeOf_eq_el10_iff c w).mp hr <;> simpa [hel] using h.level

theorem stage2Of_eq (cfg : Config) (r : Regime) : stage2Of cfg r c' = stage2Of cfg r c := by
  have hhas : ∀ w, hasStage2 cfg (.el10 w) c' = hasStage2 cfg (.el10 w) c := by
    intro w
    cases w <;> simp [hasStage2, h.eel2]
  cases r with
  | el10 w => simp [stage2Of, hhas]
  | el20 w | el2 w | el3 => rfl

/-- What Table D8-2 asks of a context does not depend on TGE. -/
theorem stageRequirementsHold_eq (hel2 : c.el = .el2) (cfg : Config) (st : Stage) :
    stageRequirementsHold cfg st c' = stageRequirementsHold cfg st c := by
  simp only [stageRequirementsHold, h.eel2, h.nse, h.ns, h.e2h hel2]

theorem contextWellFormed_eq (cfg : Config) : contextWellFormed cfg c' = contextWellFormed cfg c := by
  obtain hel2 | hel3 := h.level
  · have hne : c.el ≠ .el3 := by simp [hel2]
    rw [Bool.eq_iff_iff, contextWellFormed_below_iff hne, contextWellFormed_below_iff (h.el ▸ hne)]
    simp only [stage2RequirementsHold_iff, h.regimeOf_eq, h.stageRequirementsHold_eq hel2, h.stage2Of_eq,
      h.el, h.ss, h.nse, h.ns]
  · rw [Bool.eq_iff_iff, contextWellFormed_el3_iff hel3, contextWellFormed_el3_iff (h.el.trans hel3), h.el]
    rfl

end Context.DifferInHcr

namespace Machine

theorem contextRefusal_of_differInHcr {c c' : Context} (h : c.DifferInHcr c') (cfg : Config) (r : Regime) :
    contextRefusal cfg c' r = contextRefusal cfg c r := by
  unfold contextRefusal el0AArch32
  rw [h.contextWellFormed_eq, h.el, h.ss]

/-- Without an access from EL0 and without a stage 2, AArch32 asks nothing of a stage (R226, R227). -/
theorem violatesVMSAv8_eq_false {s : State} {c : Context} {r : Regime} (hel : c.el ≠ .el0)
    (hr : ∀ w, r ≠ .el10 w) : violatesVMSAv8 s c r = false := by
  rw [← Bool.not_eq_true, violatesVMSAv8_iff, el0AArch32_iff]
  rintro (⟨⟨hel0, -⟩, -⟩ | ⟨w, htwo, -⟩)
  · exact hel hel0
  · exact hr w (stage2Of_some htwo).1

/-! ### Setting a field of a register outside the row -/

/-- The state after a field is set (`opSetField_next`). -/
def State.withField (s : State) (f : SysField) (v : Nat) : State := { s with regs := s.regs.write f v }

@[simp] theorem State.withField_cfg (s : State) (f : SysField) (v : Nat) : (s.withField f v).cfg = s.cfg := rfl

section WithField

variable {s : State} {f : SysField}

/-- A one-bit field that is not the one set is as before. -/
theorem bit_withField {bit : SysRegs → Bool} (g : SysField) (hbit : ∀ r : SysRegs, r.read g = (bit r).toNat)
    (h : g ≠ f) (v : Nat) : bit (s.withField f v).regs = bit s.regs := by
  have hread : (s.withField f v).regs.read g = s.regs.read g := s.regs.read_write_ne v h
  rw [hbit, hbit] at hread
  exact Function.LeftInverse.injective Bool.ofNat_toNat hread

theorem e2h_ctx_withField (h : f ≠ .e2h) (v : Nat) : (s.withField f v).ctx.e2h = s.ctx.e2h :=
  bit_withField .e2h (fun _ => rfl) h.symm v

theorem tge_ctx_withField (h : f ≠ .tge) (v : Nat) : (s.withField f v).ctx.tge = s.ctx.tge :=
  bit_withField .tge (fun _ => rfl) h.symm v

/-- The bits of the context that come from SCR_EL3 are as before where no field of that register is set. -/
theorem scr_ctx_withField (h : f.reg ≠ .scrEL3) (v : Nat) :
    (s.withField f v).ctx.eel2 = s.ctx.eel2 ∧ (s.withField f v).ctx.nse = s.ctx.nse ∧
      (s.withField f v).ctx.ns = s.ctx.ns := by
  have hne {g : SysField} (hg : g.reg = .scrEL3) : g ≠ f := fun e => h (e ▸ hg)
  have heel2 := bit_withField (s := s) .eel2 (fun _ => rfl) (hne rfl) v
  have hnse := bit_withField (s := s) .nse (fun _ => rfl) (hne rfl) v
  have hns := bit_withField (s := s) .ns (fun _ => rfl) (hne rfl) v
  exact ⟨heel2, congrArg (fun b => if s.cfg.haveEL3 then b else _) hnse,
    congrArg (fun b => if s.cfg.haveEL3 then b else _) hns⟩

/-- At EL2 and EL3 the context differs in HCR_EL2 at most, where no field of SCR_EL3 is set and E2H only at EL3. -/
theorem differInHcr_withField (hel : s.el = .el2 ∨ s.el = .el3) (hscr : f.reg ≠ .scrEL3)
    (he2h : f = .e2h → s.el = .el3) (v : Nat) : s.ctx.DifferInHcr (s.withField f v).ctx := by
  obtain ⟨heel2, hnse, hns⟩ := scr_ctx_withField hscr v
  refine { level := hel, el := rfl, ss := rfl, eel2 := heel2, nse := hnse, ns := hns, e2h := ?e2h }
  case e2h =>
    intro (hel2 : s.el = .el2)
    have hne : f ≠ .e2h := fun hf => absurd (hel2.symm.trans (he2h hf)) (by decide)
    exact e2h_ctx_withField hne v

variable {r : Regime} (hrow : f.reg ∉ controllingRegisters (.one r))
include hrow

theorem read_withField {g : SysField} (hg : g.reg ∈ controllingRegisters (.one r)) (v : Nat) :
    (s.withField f v).regs.read g = s.regs.read g :=
  s.regs.read_write_of_reg_ne v fun e => hrow (e ▸ hg)

/-- The stage sees no more of the context than its row has. -/
theorem seenBy_withField (v : Nat) :
    (s.withField f v).ctx.seenBy (.one r) = s.ctx.seenBy (.one r) := by
  refine Context.seenBy_congr rfl rfl (fun hhcr => ?hcr) fun hscr =>
    scr_ctx_withField (fun e => hrow (e ▸ hscr)) v
  case hcr =>
    have hne {g : SysField} (hg : g.reg = .hcrEL2) : f ≠ g := by
      rintro rfl
      exact hrow (hg ▸ hhcr)
    exact ⟨e2h_ctx_withField (hne rfl) v, tge_ctx_withField (hne rfl) v⟩

/-- The stage translates as before in one and the same context. -/
theorem translateStage_withField (o : OpenParameters) (c : Context) (v ia : Nat) :
    translateStage o (s.withField f v) c (.one r) ia none = translateStage o s c (.one r) ia none :=
  translateStage_congr o c rfl rfl rfl rfl rfl rfl (read_withField hrow (tnszField_reg_mem r _) v)
    fun _ hg => read_withField hrow (reg_mem_of_mem_walkFields hg) v

variable {v : Nat} (hctx : s.ctx.DifferInHcr (s.withField f v).ctx)
include hctx

/-- And in the context of the PE too. -/
theorem translateStage_withField_ctx (o : OpenParameters) (ia : Nat) :
    translateStage o (s.withField f v) (s.withField f v).ctx (.one r) ia none =
      translateStage o s s.ctx (.one r) ia none :=
  (translateStage_withField hrow o _ v ia).trans
    (translateStage_context o s (.one r) ia none hctx.ss (seenBy_withField hrow v) (hctx.stage2Of_eq s.cfg))

variable (hr : regimeOf s.ctx = some r)
include hr

theorem regimeRefusal_withField :
    regimeRefusal (s.withField f v) (s.withField f v).ctx r = regimeRefusal s s.ctx r := by
  have hbefore : violatesVMSAv8 s s.ctx r = false :=
    violatesVMSAv8_eq_false hctx.el_ne_el0 (hctx.ne_el10 hr)
  have hafter : violatesVMSAv8 (s.withField f v) (s.withField f v).ctx r = false :=
    violatesVMSAv8_eq_false (hctx.el ▸ hctx.el_ne_el0) (hctx.ne_el10 hr)
  cases r with
  | el2 w =>
    have hps : (s.withField f v).regs.tcrEL2.oaSize = s.regs.tcrEL2.oaSize :=
      BitVec.eq_of_toNat_eq (read_withField hrow (g := .oaSize .tcrEL2) (tcrEL2_mem_controllingRegisters_el2 w) v)
    simp only [regimeRefusal, hps, hbefore, hafter]
  | el10 w | el20 w | el3 => simp only [regimeRefusal, hbefore, hafter]

theorem translationRefusal_withField :
    translationRefusal (s.withField f v) (s.withField f v).ctx r = translationRefusal s s.ctx r := by
  unfold translationRefusal
  rw [regimeRefusal_withField hrow hctx hr, contextRefusal_of_differInHcr hctx]
  rfl

/-- The regime has a stage 1 alone, which translates as before. -/
theorem translateIn_withField (o : OpenParameters) (va : Nat) :
    translateIn o (s.withField f v) (s.withField f v).ctx r va = translateIn o s s.ctx r va := by
  have hnone (cfg : Config) (c : Context) : stage2Of cfg r c = none :=
    Option.eq_none_iff_forall_ne_some.mpr fun w hw => hctx.ne_el10 hr w (stage2Of_some hw).1
  unfold translateIn
  simp only [translateStage_withField_ctx hrow hctx, hnone]

end WithField

/-- Setting a field of SCR_EL3 needs EL3, where the row of the stage in use has that register. -/
theorem reg_ne_scrEL3_of_out_of_context {s : State} {f : SysField} (hel : s.el = .el2 ∨ s.el = .el3)
    (hacc : f.reg.lowestEL.num ≤ s.el.num)
    (hrow : ∀ r, regimeOf s.ctx = some r → f.reg ∉ controllingRegisters (.one r)) : f.reg ≠ .scrEL3 := by
  intro hreg
  rw [hreg] at hacc hrow
  obtain hel2 | hel3 := hel
  · rw [hel2] at hacc
    exact absurd hacc (by decide)
  · exact hrow .el3 (regimeOf_el3 hel3) (by decide)

/-- Settles O60: the field is none that the stage in use, a stage 1 alone, or its view of the context depends on, and
the checks before the translation come out as before. -/
theorem outOfContextFieldsDoNotMatter : Obligations.OutOfContextFieldsDoNotMatter := by
  unfold Obligations.OutOfContextFieldsDoNotMatter
  intro o s f v va hel hacc hrow he2h
  have hctx : s.ctx.DifferInHcr (s.withField f v).ctx :=
    differInHcr_withField hel (reg_ne_scrEL3_of_out_of_context hel hacc hrow) he2h v
  show translate o (s.withField f v) (s.withField f v).ctx va = translate o s s.ctx va
  have haddr : accessAddress s.cfg (s.withField f v).ctx va = accessAddress s.cfg s.ctx va := by
    rw [accessAddress_eq, accessAddress_eq, hctx.el]
  unfold translate
  rw [hctx.regimeOf_eq]
  cases hr : regimeOf s.ctx with
  | none => rfl
  | some r =>
    simp only [translationRefusal_withField (hrow r hr) hctx hr, translateIn_withField (hrow r hr) hctx hr,
      State.withField_cfg, haddr]

end Machine

end Sys2Proof
end

section
/-! SUPPORT. Sizes (Tables D8-5, D8-6 and D8-7; R271, R280): Table D8-5 is Table D8-6 wherever it is not reserved, and
the clamp of the OA size to the PA size is one of the field to PARange. -/

namespace Sys2Proof

/-- PARange and {I}PS number the same sizes, but that PARange has four bits, whose upper half is reserved (R271). -/
theorem paRangeBits_eq : ∀ v : BitVec 4,
    paRangeBits v = if v.toNat < 8 then some (psBits (BitVec.ofNat 3 v.toNat)) else none := by decide

/-- A larger field stands for a larger size. -/
theorem psBits_le_psBits : ∀ {a b : BitVec 3}, a.toNat ≤ b.toNat → psBits a ≤ psBits b := by decide

theorem psBits_ofNat_min (a b : BitVec 3) :
    psBits (BitVec.ofNat 3 (min a.toNat b.toNat)) = min (psBits a) (psBits b) := by
  obtain h | h := Nat.le_total a.toNat b.toNat
  · rw [Nat.min_eq_left h, Nat.min_eq_left (psBits_le_psBits h), BitVec.ofNat_toNat, BitVec.setWidth_eq]
  · rw [Nat.min_eq_right h, Nat.min_eq_right (psBits_le_psBits h), BitVec.ofNat_toNat, BitVec.setWidth_eq]

/-- The PARange of an implementation is not reserved. -/
theorem Config.paRange_lt_of_wellFormed {cfg : Config} (h : cfg.wellFormed = true) : cfg.paRange.toNat < 8 := by
  obtain ⟨n, hsize, -⟩ := cfg.wellFormed_iff.mp h
  by_contra hreserved
  simp [paRangeBits_eq, hreserved] at hsize

theorem paSize_of_wellFormed {cfg : Config} (h : cfg.wellFormed = true) :
    paSize cfg = psBits (BitVec.ofNat 3 cfg.paRange.toNat) := by
  rw [paSize, paRangeBits_eq, if_pos (Config.paRange_lt_of_wellFormed h), Option.getD_some]

/-- Table D8-7 (R318): the 64KB granule differs from the others with FEAT_TTST only. -/
theorem maxTnSZ_of_ttst {cfg : Config} (h : cfg.featTTST = true) (g : Granule) :
    maxTnSZ cfg g = if g = .g64KB then 47 else 48 := by
  rw [maxTnSZ, if_pos h]

theorem maxTnSZ_of_no_ttst {cfg : Config} (h : cfg.featTTST = false) (g : Granule) : maxTnSZ cfg g = 39 :=
  if_neg (by simp [h])

namespace Machine

/-- Settles O34: the first two tables are evaluated, the third read off by FEAT_TTST. -/
theorem sizeTables : Obligations.SizeTables := by
  unfold Obligations.SizeTables
  refine ⟨by decide, by decide, fun cfg => ?maxTnSZ⟩
  case maxTnSZ =>
    cases httst : cfg.featTTST with
    | true => simp [maxTnSZ_of_ttst httst]
    | false => simp [maxTnSZ_of_no_ttst httst]

/-- Settles O36: the clamp is the minimum of the two sizes. -/
theorem oaSizeIsClamped : Obligations.OASizeIsClamped := by
  unfold Obligations.OASizeIsClamped
  intro s st
  exact ⟨fun hfits => Nat.min_eq_left hfits, fun hlarger => Nat.min_eq_right (Nat.le_of_lt hlarger)⟩

/-- Clamping the field to PARange clamps the size it stands for to the PA size (R280). -/
theorem psBits_min_paRange {s : State} (h : s.cfg.wellFormed = true) (st : Stage) :
    psBits (BitVec.ofNat 3 (min (s.regs.read (.oaSize (tcrOf st))) s.cfg.paRange.toNat)) = oaSize s st := by
  have hsame : (BitVec.ofNat 3 s.cfg.paRange.toNat).toNat = s.cfg.paRange.toNat :=
    Nat.mod_eq_of_lt (Config.paRange_lt_of_wellFormed h)
  rw [oaSize, paSize_of_wellFormed h, ← psBits_ofNat_min, hsame]
  rfl

end Machine

end Sys2Proof
end

section
/-! SUPPORT. The maximum OA size (R274 to R276), and what an enabled stage makes of its walk (R282, D7, D24). -/

namespace Sys2Proof.Machine

theorem ds_eq_true_iff (s : State) (r : OASizeReg) : s.regs.ds r = true ↔ s.regs.read (.ds r) = 1 :=
  Bool.toNat_eq_one.symm

theorem maxOASize_of_vmsav8_64 {s : State} {st : Stage} (h : systemOf s st = .vmsav8_64) (range : VARange) :
    maxOASize s st range =
      if granuleOf s st range = .g64KB then (if s.cfg.featLPA then 52 else 48)
      else if s.regs.read (.ds (tcrOf st)) = 1 then 52 else 48 := by
  unfold maxOASize
  rw [h]
  cases granuleOf s st range <;> simp [ds_eq_true_iff]

theorem maxOASize_of_vmsav9_128 {s : State} {st : Stage} (h : systemOf s st = .vmsav9_128) (range : VARange) :
    maxOASize s st range = 56 := by
  rw [maxOASize, h]

/-- Bits [55:52] of an OA of VMSAv8-64 are zero (R274). -/
theorem maxOASize_le_of_vmsav8_64 {s : State} {st : Stage} (h : systemOf s st = .vmsav8_64) (range : VARange) :
    maxOASize s st range ≤ 52 := by
  rw [maxOASize_of_vmsav8_64 h]
  split_ifs <;> decide

theorem walk_ok_lt_maxOASize {o : OpenParameters} {s : State} {c : Context} {st : Stage} {range : VARange}
    {ia : Nat} {inSpace : Option PASpace} {oa : Nat} {space : PASpace} {level : Int} {info : Info}
    (h : (walk o s c st range ia inSpace).result = .ok oa space level info) :
    oa < 2 ^ maxOASize s st range := by
  obtain ⟨-, -, ⟨page, rfl⟩, -⟩ := walk_ok h
  exact constrainOA_lt _ page ia (Nat.le_trans (by decide) (maxOASize_bounds s st range).1)

/-- Settles O53: the OA of a walk is below the maximum OA size of its stage, which is 52 bits at most with
VMSAv8-64. -/
theorem maxOASizeLimitsTheWalk : Obligations.MaxOASizeLimitsTheWalk := by
  unfold Obligations.MaxOASizeLimitsTheWalk
  intro o s c st range
  refine ⟨fun h => maxOASize_of_vmsav8_64 h range, fun h => maxOASize_of_vmsav9_128 h range, ?walk⟩
  case walk =>
    intro ia oa inSpace space level info h hwalk
    exact Nat.lt_of_lt_of_le (walk_ok_lt_maxOASize hwalk)
      (Nat.pow_le_pow_right (by decide) (maxOASize_le_of_vmsav8_64 h range))

theorem translateStage_of_checks {o : OpenParameters} {s : State} {c : Context} {st : Stage} {ia t : Nat}
    {inSpace : Option PASpace} (henabled : s.enabled.get st = true)
    (hgranule : granuleSupported s.cfg st.number (granuleOf s st (stageRange st ia)) = true)
    (htnsz : effectiveTnSZ s st (stageRange st ia) inSpace = some t)
    (hrange : inRange (stageRange st ia) (iaSize t) ia = true) :
    translateStage o s c st ia inSpace =
      { result := checkOutput s st (walk o s c st (stageRange st ia) ia inSpace).result
        reads := (walk o s c st (stageRange st ia) ia inSpace).reads } := by
  simp [translateStage, henabled, hgranule, htnsz, hrange]

/-- Settles O50: past its checks a stage comes to its walk, with the OA compared with `2^PASize()`. -/
theorem oversizedOutputFaults : Obligations.OversizedOutputFaults := by
  unfold Obligations.OversizedOutputFaults
  intro o s c st ia t inSpace w henabled hgranule htnsz hrange
  rw [translateStage_of_checks henabled hgranule htnsz hrange]
  refine ⟨fun oa space level info hok => ?succeeds, fun f hfault => ?faults, rfl⟩
  case succeeds => exact congrArg (checkOutput s st) hok
  case faults => exact congrArg (checkOutput s st) hfault

end Sys2Proof.Machine
end

section
/-! SUPPORT. The view of the registers that a walk gets (R84, log entry 9): which fields of the stage's row it sees, and
with which values. -/

namespace Sys2Proof

theorem SysField.mem_fields_reg (f : SysField) : f ∈ f.reg.fields := by
  cases f with
  | t0sz r | t1sz r | oaSize r | ds r | d128 r | rest r => cases r <;> decide
  | e2h | tge | nse | ns | eel2 => decide

theorem mem_walkFields_iff (st : Stage) (range : VARange) (inSpace : Option PASpace) (f : SysField) :
    f ∈ walkFields st range inSpace ↔ f.reg ∈ controllingRegisters st ∧ fieldServes range inSpace f = true := by
  constructor
  · exact fun h => ⟨reg_mem_of_mem_walkFields h, (List.mem_filter.mp h).2⟩
  · rintro ⟨hreg, hserves⟩
    exact List.mem_filter.mpr ⟨List.mem_flatMap.mpr ⟨f.reg, hreg, f.mem_fields_reg⟩, hserves⟩

theorem mem_walkRegs_iff (cfg : Config) (r : SysRegs) (st : Stage) (range : VARange) (inSpace : Option PASpace)
    (t : Nat) (f : SysField) (v : Nat) :
    (f, v) ∈ walkRegs cfg r st range inSpace t ↔ f ∈ walkFields st range inSpace ∧
      v = if f = tnszUsed st range inSpace then t else effectiveField cfg f (r.read f) := by
  simp only [walkRegs, List.mem_map, Prod.mk.injEq]
  constructor
  · rintro ⟨g, hg, rfl, rfl⟩
    exact ⟨hg, rfl⟩
  · rintro ⟨hf, rfl⟩
    exact ⟨f, hf, rfl, rfl⟩

/-- The field that configures the IA size is a TnSZ. -/
theorem width_tnszUsed (st : Stage) (range : VARange) (inSpace : Option PASpace) :
    (tnszUsed st range inSpace).width = some 6 := by
  cases st with
  | one r => cases r <;> cases range <;> rfl
  | two w => cases h : inSpace.getD .nonSecure <;> rw [tnszUsed, h] <;> rfl

theorem ne_tnszUsed_of_width {f : SysField} (h : f.width ≠ some 6) (st : Stage) (range : VARange)
    (inSpace : Option PASpace) : f ≠ tnszUsed st range inSpace := by
  rintro rfl
  exact h (width_tnszUsed st range inSpace)

/-! ### The fields in a stage's row that serve a range or an IPA space -/

theorem oaSize_mem_walkFields (st : Stage) (range : VARange) (inSpace : Option PASpace) :
    .oaSize (tcrOf st) ∈ walkFields st range inSpace := by
  refine (mem_walkFields_iff ..).mpr ⟨?row, rfl⟩
  case row =>
    cases st with
    | one r =>
      cases r with
      | el10 w | el20 w | el2 w => cases w <;> decide
      | el3 => decide
    | two w => cases w <;> decide

theorem tableBase_mem_controllingRegisters (r : Regime) (range : VARange) :
    tableBase r range ∈ controllingRegisters (.one r) := by
  cases r with
  | el10 w | el20 w | el2 w => cases w <;> cases range <;> decide
  | el3 => cases range <;> decide

section Stage1

variable {r : Regime} {range : VARange} (hupper : range = .upper → twoVARanges r = true)
include hupper

/-- A range of a stage 1 is served by its own TnSZ (R315, R316). -/
theorem fieldServes_tnszField (inSpace : Option PASpace) :
    fieldServes range inSpace (tnszField r range) = true := by
  cases range with
  | lower | single => cases r <;> rfl
  | upper =>
    cases r with
    | el10 w | el20 w => rfl
    | el2 w | el3 => exact absurd (hupper rfl) (by simp [twoVARanges])

/-- And by its own TTBR, not by that of the other range. -/
theorem fieldServes_tableBase_iff (inSpace : Option PASpace) (range' : VARange) :
    fieldServes range inSpace (.rest (tableBase r range')) = true ↔ tableBase r range' = tableBase r range := by
  cases r with
  | el10 w | el20 w => cases range <;> cases range' <;> simp [tableBase, fieldServes]
  | el2 w | el3 =>
    have hne : range ≠ .upper := fun h => absurd (hupper h) (by simp [twoVARanges])
    simp [tableBase, fieldServes, hne]

theorem tnszField_mem_walkFields (inSpace : Option PASpace) :
    tnszField r range ∈ walkFields (.one r) range inSpace :=
  (mem_walkFields_iff ..).mpr ⟨tnszField_reg_mem r range, fieldServes_tnszField hupper inSpace⟩

theorem tableBase_mem_walkFields_iff (inSpace : Option PASpace) (range' : VARange) :
    .rest (tableBase r range') ∈ walkFields (.one r) range inSpace ↔
      tableBase r range' = tableBase r range := by
  rw [mem_walkFields_iff, fieldServes_tableBase_iff hupper]
  exact and_iff_right (tableBase_mem_controllingRegisters r range')

end Stage1

section Stage2

/-- An IPA space is served by its own T0SZ (R350). -/
theorem fieldServes_t0szFieldS2 (range : VARange) (space : PASpace) :
    fieldServes range (some space) (t0szFieldS2 space) = true := by
  cases space <;> rfl

/-- And by its own table base, not by that of another space (R46). -/
theorem fieldServes_tableBaseS2_iff (range : VARange) (space space' : PASpace) :
    fieldServes range (some space) (.rest (tableBaseS2 space')) = true ↔
      tableBaseS2 space' = tableBaseS2 space := by
  cases space <;> cases space' <;> simp [fieldServes, tableBaseS2]

variable {w : World} {space : PASpace} (hspace : permittedIPASpace w space = true)
include hspace

theorem t0szFieldS2_reg_mem : (t0szFieldS2 space).reg ∈ controllingRegisters (.two w) := by
  cases w <;> cases space <;> revert hspace <;> decide

theorem tableBaseS2_mem_controllingRegisters : tableBaseS2 space ∈ controllingRegisters (.two w) := by
  cases w <;> cases space <;> revert hspace <;> decide

theorem t0szFieldS2_mem_walkFields (range : VARange) :
    t0szFieldS2 space ∈ walkFields (.two w) range (some space) :=
  (mem_walkFields_iff ..).mpr ⟨t0szFieldS2_reg_mem hspace, fieldServes_t0szFieldS2 range space⟩

theorem tableBaseS2_mem_walkFields (range : VARange) :
    .rest (tableBaseS2 space) ∈ walkFields (.two w) range (some space) :=
  (mem_walkFields_iff ..).mpr
    ⟨tableBaseS2_mem_controllingRegisters hspace, (fieldServes_tableBaseS2_iff range space space).mpr rfl⟩

end Stage2

namespace Machine

theorem twoVARanges_of_stageRange_upper {r : Regime} {ia : Nat} (h : stageRange (.one r) ia = .upper) :
    twoVARanges r = true := by
  by_contra htwo
  simp [stageRange, selectRange, htwo] at h

section WalkInput

variable {s : State} {st : Stage} {range : VARange} {inSpace : Option PASpace} {f : SysField}

theorem mem_walkFields_of_mem_regs {c : Context} {ia v : Nat}
    (h : (f, v) ∈ (walkInput s c st range ia inSpace).regs) : f ∈ walkFields st range inSpace :=
  ((mem_walkRegs_iff ..).mp h).1

/-- A field that is no TnSZ is seen with the value the hardware acts on. -/
theorem mem_regs_iff_of_not_tnsz (hf : f ∈ walkFields st range inSpace) (hwidth : f.width ≠ some 6)
    (c : Context) (ia v : Nat) :
    (f, v) ∈ (walkInput s c st range ia inSpace).regs ↔ v = effectiveField s.cfg f (s.regs.read f) := by
  have hne := ne_tnszUsed_of_width hwidth st range inSpace
  simp only [walkInput, mem_walkRegs_iff, hf, hne, true_and, if_false]

/-- The TnSZ that configures the IA size is seen as the one in use. -/
theorem mem_regs_tnszUsed_iff {t : Nat} (ht : effectiveTnSZ s st range inSpace = some t)
    (hf : tnszUsed st range inSpace ∈ walkFields st range inSpace) (c : Context) (ia v : Nat) :
    (tnszUsed st range inSpace, v) ∈ (walkInput s c st range ia inSpace).regs ↔ v = t := by
  simp only [walkInput, mem_walkRegs_iff, hf, ht, true_and, if_true, Option.getD_some]

end WalkInput

theorem tnszUsed_mem_walkFields {st : Stage} {inSpace : Option PASpace} (ia : Nat)
    (hspace : ∀ w, st = .two w → ∃ space, inSpace = some space ∧ permittedIPASpace w space = true) :
    tnszUsed st (stageRange st ia) inSpace ∈ walkFields st (stageRange st ia) inSpace := by
  cases st with
  | one r => exact tnszField_mem_walkFields twoVARanges_of_stageRange_upper inSpace
  | two w =>
    obtain ⟨space, rfl, hpermitted⟩ := hspace w rfl
    exact t0szFieldS2_mem_walkFields hpermitted _

/-- Settles O37: each field named is in the stage's row and serves the range, so that the walk sees it with its
effective value; the other table base registers serve another range or another IPA space. -/
theorem walkSeesEffectiveValues : Obligations.WalkSeesEffectiveValues := by
  unfold Obligations.WalkSeesEffectiveValues
  intro s c st ia v inSpace range regs
  have hps : (.oaSize (tcrOf st), v) ∈ regs ↔
      v = min (s.regs.read (.oaSize (tcrOf st))) s.cfg.paRange.toNat :=
    mem_regs_iff_of_not_tnsz (oaSize_mem_walkFields st range inSpace) (by simp [SysField.width]) c ia v
  refine ⟨hps, fun hw hmem => ?oaSize, fun r hr => ?d128, fun t ht hspace => ?tnsz, fun r hr => ?stage1,
    fun w space hst hin hpermitted => ?stage2⟩
  case oaSize =>
    rw [hps.mp hmem]
    exact psBits_min_paRange hw st
  case d128 =>
    exact mem_regs_iff_of_not_tnsz ((checkedFields_mem_walkFields st range inSpace).1 r hr)
      (by simp [SysField.width]) c ia v
  case tnsz => exact mem_regs_tnszUsed_iff ht (tnszUsed_mem_walkFields ia hspace) c ia v
  case stage1 =>
    subst hr
    have hserves (range') := tableBase_mem_walkFields_iff (r := r) (range := range)
      twoVARanges_of_stageRange_upper inSpace range'
    exact ⟨mem_regs_iff_of_not_tnsz ((hserves range).mpr rfl) (by simp [SysField.width]) c ia v,
      fun range' hne hmem => hne ((hserves range').mp (mem_walkFields_of_mem_regs hmem))⟩
  case stage2 =>
    subst hst hin
    refine ⟨mem_regs_iff_of_not_tnsz (tableBaseS2_mem_walkFields hpermitted range) (by simp [SysField.width])
      c ia v, fun space' hne hmem => hne ?_⟩
    have hserves := ((mem_walkFields_iff ..).mp (mem_walkFields_of_mem_regs hmem)).2
    exact (fieldServes_tableBaseS2_iff range space space').mp hserves

end Machine

end Sys2Proof
end

section
/-! SUPPORT. The VA ranges (R177, R303, R306, R308 to R311, R328, D6): which range bit 55 selects, and the addresses
that a range of a size holds. -/

namespace Sys2Proof

theorem twoVARanges_iff (r : Regime) : twoVARanges r = true ↔ ∃ w, r = .el10 w ∨ r = .el20 w := by
  cases r <;> simp [twoVARanges]

theorem selectRange_of_twoVARanges {r : Regime} (h : twoVARanges r = true) (va : Nat) :
    selectRange r va = if va.testBit 55 then .upper else .lower := if_pos h

theorem selectRange_of_one_range {r : Regime} (h : twoVARanges r = false) (va : Nat) :
    selectRange r va = .single := if_neg (by simp [h])

theorem rangeOf_of_ne_upper {range : VARange} (h : range ≠ .upper) (n : Nat) :
    rangeOf range n = (0, 2 ^ n - 1) := by
  cases range with
  | upper => exact absurd rfl h
  | lower | single => rfl

theorem inRange_upper_iff (n a : Nat) : inRange .upper n a = true ↔ 2 ^ 64 - 2 ^ n ≤ a := decide_eq_true_iff

theorem inRange_iff_of_ne_upper {range : VARange} (h : range ≠ .upper) (n a : Nat) :
    inRange range n a = true ↔ a < 2 ^ n := by
  cases range with
  | upper => exact absurd rfl h
  | lower | single => exact decide_eq_true_iff

namespace Machine

/-- Settles O39: an upper range is bounded above by the 64 bits of the address alone, any other range below by 0
alone. -/
theorem inRangeIffWithinRangeOf : Obligations.InRangeIffWithinRangeOf := by
  unfold Obligations.InRangeIffWithinRangeOf
  intro range n a _ ha
  by_cases hupper : range = .upper
  · subst hupper
    have hlast : a ≤ 2 ^ 64 - 1 := Nat.le_sub_one_of_lt ha
    exact ⟨rfl, (inRange_upper_iff n a).trans (and_iff_left hlast).symm⟩
  · rw [rangeOf_of_ne_upper hupper, if_neg hupper, inRange_iff_of_ne_upper hupper,
      ← Nat.le_sub_one_iff_lt (Nat.two_pow_pos n)]
    exact ⟨rfl, (and_iff_right (Nat.zero_le a)).symm⟩

/-- Settles O38: each range is evaluated. -/
theorem maximumVARanges : Obligations.MaximumVARanges := by
  unfold Obligations.MaximumVARanges rangeOf
  decide

/-- Settles O40: bit 55 of the address as a number is that of the VA, and it is looked at in the two-range regimes
only. -/
theorem bit55SelectsTheRange : Obligations.Bit55SelectsTheRange := by
  unfold Obligations.Bit55SelectsTheRange
  intro r va
  have hbit : va.toNat.testBit 55 = va[55] := by rw [BitVec.testBit_toNat, BitVec.getLsbD_eq_getElem]
  refine ⟨fun htwo h0 => ?lower, fun htwo h1 => ?upper, fun hone => selectRange_of_one_range hone _,
    twoVARanges_iff r, rfl, fun _ => rfl⟩
  case lower => rw [selectRange_of_twoVARanges htwo, hbit, h0]; rfl
  case upper => rw [selectRange_of_twoVARanges htwo, hbit, h1]; rfl

end Machine

end Sys2Proof
end

section
/-! SUPPORT. The maximum VA size and the minimum TnSZ of a stage 1 (R301, R302, R307, R323, R324, D28), by the
translation system. -/

namespace Sys2Proof.Machine

section Vmsav8

variable {s : State} {r : Regime} (h : systemOf s (.one r) = .vmsav8_64) (range : VARange)
include h

theorem maxVASize_of_vmsav8_64 :
    maxVASize s r range =
      if granuleOf s (.one r) range = .g64KB then (if s.cfg.featLVA then 52 else 48)
      else if s.regs.read (.ds (tcrOf (.one r))) = 1 then 52 else 48 := by
  unfold maxVASize
  rw [h]
  cases granuleOf s (.one r) range <;> simp [ds_eq_true_iff]

theorem minTnSZS1_of_vmsav8_64 :
    minTnSZS1 s r range =
      if granuleOf s (.one r) range = .g64KB then (if s.cfg.featLVA then 12 else 16)
      else if s.regs.read (.ds (tcrOf (.one r))) = 1 then 12 else 16 := by
  unfold minTnSZS1
  rw [h]
  cases granuleOf s (.one r) range <;> simp [ds_eq_true_iff]

end Vmsav8

section Vmsav9

variable {s : State} {r : Regime} (h : systemOf s (.one r) = .vmsav9_128) (range : VARange)
include h

theorem maxVASize_of_vmsav9_128 :
    maxVASize s r range = if s.cfg.featLVA3 then 56 else if s.cfg.featLVA then 52 else 48 := by
  rw [maxVASize, h]

theorem minTnSZS1_of_vmsav9_128 :
    minTnSZS1 s r range =
      if s.cfg.featLVA3 then (if twoVARanges r then 9 else 8) else if s.cfg.featLVA then 12 else 16 := by
  rw [minTnSZS1, h]

end Vmsav9

theorem maxVASize_le (s : State) (r : Regime) (range : VARange) : maxVASize s r range ≤ 56 := by
  unfold maxVASize
  (repeat' split) <;> decide

theorem effectiveMaxVASize_le (s : State) (r : Regime) (range : VARange) :
    effectiveMaxVASize s r range ≤ maxVASize s r range := by
  unfold effectiveMaxVASize
  split
  · exact Nat.min_le_left _ _
  · exact Nat.le_refl _

theorem effectiveMaxVASize_le_of_twoVARanges (s : State) {r : Regime} (h : twoVARanges r = true)
    (range : VARange) : effectiveMaxVASize s r range ≤ 55 := by
  rw [effectiveMaxVASize, if_pos h]
  exact Nat.min_le_right _ _

/-- The smallest TnSZ configures the largest VA (R317, R323, R324); only the 56 bits of FEAT_LVA3 reach the limit of
a two-range regime (D28). -/
theorem minTnSZS1_eq (s : State) (r : Regime) (range : VARange) :
    minTnSZS1 s r range = 64 - effectiveMaxVASize s r range := by
  unfold effectiveMaxVASize
  cases hsys : systemOf s (.one r) with
  | vmsav8_64 =>
    rw [minTnSZS1_of_vmsav8_64 hsys, maxVASize_of_vmsav8_64 hsys]
    split_ifs <;> rfl
  | vmsav9_128 =>
    rw [minTnSZS1_of_vmsav9_128 hsys, maxVASize_of_vmsav9_128 hsys]
    split_ifs <;> rfl

/-- Settles O41: the values by the translation system, and the relation between the two from them. -/
theorem minTnSZMatchesMaxVASize : Obligations.MinTnSZMatchesMaxVASize := by
  unfold Obligations.MinTnSZMatchesMaxVASize
  intro s r range v8 v9
  exact ⟨fun h => ⟨maxVASize_of_vmsav8_64 h range, minTnSZS1_of_vmsav8_64 h range⟩,
    fun h => ⟨maxVASize_of_vmsav9_128 h range, minTnSZS1_of_vmsav9_128 h range⟩, rfl, minTnSZS1_eq s r range,
    (effectiveMaxVASize_le s r range).trans (maxVASize_le s r range),
    fun htwo => effectiveMaxVASize_le_of_twoVARanges s htwo range⟩

end Sys2Proof.Machine
end

section
/-! SUPPORT. The TnSZ in use (R322, R325, R326, R358, R359): one rule serves every stage, with the stage's own minimum
and its own answer to a value below that. -/

namespace Sys2Proof.Machine

/-- The minimum TnSZ of a stage (R323, R324, R354). -/
def minTnSZ (s : State) (st : Stage) (range : VARange) : Nat :=
  match st with
  | .one r => minTnSZS1 s r range
  | .two w => minT0SZS2 s w

/-- The TnSZ a stage uses in place of one below its minimum; none is the level 0 Translation fault (R325, R358). -/
def belowMinTnSZ (s : State) (st : Stage) : Option Nat :=
  match st with
  | .one _ => if s.cfg.featLVA = false ∧ s.cfg.s1TnszTooSmall = .treatAs16 then some 16 else none
  | .two w => if s.cfg.featLPA = false ∧ s.cfg.s2T0szTooSmall = .treatAsMin then some (minT0SZS2 s w) else none

/-- The TnSZ a stage uses for the field value `t` (R326, R359). -/
def tnszInUse (s : State) (st : Stage) (range : VARange) (t : Nat) : Option Nat :=
  if maxTnSZ s.cfg (granuleOf s st range) < t then
    if s.cfg.tnszTooLarge = .clampToMax then some (maxTnSZ s.cfg (granuleOf s st range)) else none
  else if t < minTnSZ s st range then belowMinTnSZ s st
  else some t

theorem effectiveTnSZS1_eq (s : State) (r : Regime) (range : VARange) (t : Nat) :
    effectiveTnSZS1 s r range t = tnszInUse s (.one r) range t := by
  unfold effectiveTnSZS1 tnszInUse belowMinTnSZ minTnSZ
  cases s.cfg.tnszTooLarge <;> cases s.cfg.featLVA <;> cases s.cfg.s1TnszTooSmall <;> rfl

theorem effectiveT0SZS2_eq (s : State) (w : World) (t : Nat) :
    effectiveT0SZS2 s w t = tnszInUse s (.two w) .single t := by
  unfold effectiveT0SZS2 tnszInUse belowMinTnSZ minTnSZ
  cases s.cfg.tnszTooLarge <;> cases s.cfg.featLPA <;> cases s.cfg.s2T0szTooSmall <;> rfl

/-- A stage goes by its own field, granule and bounds. -/
theorem effectiveTnSZ_eq (s : State) (st : Stage) (ia : Nat) (inSpace : Option PASpace) :
    effectiveTnSZ s st (stageRange st ia) inSpace =
      tnszInUse s st (stageRange st ia) (s.regs.read (tnszUsed st (stageRange st ia) inSpace)) := by
  cases st with
  | one r => exact effectiveTnSZS1_eq s r _ _
  | two w => exact effectiveT0SZS2_eq s w _

theorem minTnSZ_le_maxTnSZ (s : State) (st : Stage) (range : VARange) (g : Granule) :
    minTnSZ s st range ≤ maxTnSZ s.cfg g := by
  have hmost := maxTnSZ_ge s.cfg g
  cases st with
  | one r =>
    have hleast : minTnSZS1 s r range ≤ 16 := (minTnSZS1_bounds s r range).2
    exact hleast.trans (by omega)
  | two w => exact (minT0SZS2_le s w).trans (by omega)

/-- What stands in for a TnSZ that is too small is within the bounds. -/
theorem belowMinTnSZ_bounds {s : State} {st : Stage} {u : Nat} (h : belowMinTnSZ s st = some u)
    (range : VARange) (g : Granule) : minTnSZ s st range ≤ u ∧ u ≤ maxTnSZ s.cfg g := by
  have hmost := maxTnSZ_ge s.cfg g
  cases st with
  | one r =>
    obtain ⟨-, rfl⟩ : _ ∧ 16 = u := by simpa [belowMinTnSZ] using h
    exact ⟨(minTnSZS1_bounds s r range).2, by omega⟩
  | two w =>
    obtain ⟨-, rfl⟩ : _ ∧ minT0SZS2 s w = u := by simpa [belowMinTnSZ] using h
    exact ⟨Nat.le_refl _, minTnSZ_le_maxTnSZ s (.two w) range g⟩

section TnszInUse

variable {s : State} {st : Stage} {range : VARange} {t : Nat}

theorem tnszInUse_of_between (hleast : minTnSZ s st range ≤ t)
    (hmost : t ≤ maxTnSZ s.cfg (granuleOf s st range)) : tnszInUse s st range t = some t := by
  rw [tnszInUse, if_neg (Nat.not_lt_of_le hmost), if_neg (Nat.not_lt_of_le hleast)]

theorem tnszInUse_of_clampToMax (h : s.cfg.tnszTooLarge = .clampToMax)
    (hlarge : maxTnSZ s.cfg (granuleOf s st range) < t) :
    tnszInUse s st range t = some (maxTnSZ s.cfg (granuleOf s st range)) := by
  rw [tnszInUse, if_pos hlarge, if_pos h]

theorem tnszInUse_of_tooLarge_fault (h : s.cfg.tnszTooLarge = .fault)
    (hlarge : maxTnSZ s.cfg (granuleOf s st range) < t) : tnszInUse s st range t = none := by
  rw [tnszInUse, if_pos hlarge, if_neg (by simp [h])]

theorem tnszInUse_of_lt_minTnSZ (h : t < minTnSZ s st range) :
    tnszInUse s st range t = belowMinTnSZ s st := by
  have hmost : t ≤ maxTnSZ s.cfg (granuleOf s st range) :=
    (Nat.le_of_lt h).trans (minTnSZ_le_maxTnSZ s st range _)
  rw [tnszInUse, if_neg (Nat.not_lt_of_le hmost), if_pos h]

theorem tnszInUse_bounds {u : Nat} (h : tnszInUse s st range t = some u) :
    minTnSZ s st range ≤ u ∧ u ≤ maxTnSZ s.cfg (granuleOf s st range) := by
  unfold tnszInUse at h
  split_ifs at h with hlarge hclamp hsmall
  · cases h
    exact ⟨minTnSZ_le_maxTnSZ s st range _, Nat.le_refl _⟩
  · exact belowMinTnSZ_bounds h range _
  · cases h
    exact ⟨Nat.le_of_not_lt hsmall, Nat.le_of_not_lt hlarge⟩

end TnszInUse

/-- Settles O42: both stages follow the one rule, whose answer is within the bounds because the substitute for a value
that is too small is. -/
theorem effectiveTnSZWithinBounds : Obligations.EffectiveTnSZWithinBounds := by
  unfold Obligations.EffectiveTnSZWithinBounds
  intro s t u
  refine ⟨fun r range h => ?stage1Bounds, fun r range hleast hmost => ?stage1Same, fun w h => ?stage2Bounds,
    fun w hleast hmost => ?stage2Same, fun r w range inSpace => ⟨rfl, rfl⟩⟩
  case stage1Bounds =>
    rw [effectiveTnSZS1_eq] at h
    exact tnszInUse_bounds h
  case stage1Same => exact (effectiveTnSZS1_eq s r range t).trans (tnszInUse_of_between hleast hmost)
  case stage2Bounds =>
    rw [effectiveT0SZS2_eq] at h
    exact tnszInUse_bounds h
  case stage2Same => exact (effectiveT0SZS2_eq s w t).trans (tnszInUse_of_between hleast hmost)

end Sys2Proof.Machine
end

section
/-! SUPPORT. The faults that a stage raises before any table read (R322, R325, R328 to R330, R352, R386, D6 to D8), and
the bound on the translated address (R332). -/

namespace Sys2Proof.Machine

/-- The level 0 Translation fault of a stage, with no table read (R386, D8). -/
def translationFaultRun (st : Stage) : StageRun :=
  { result := .fault { stage := st.number, level := 0, kind := .translation }, reads := [] }

section Checks

variable {o : OpenParameters} {s : State} {c : Context} {st : Stage} {ia : Nat} {inSpace : Option PASpace}
  (henabled : s.enabled.get st = true)
  (hgranule : granuleSupported s.cfg st.number (granuleOf s st (stageRange st ia)) = true)
include henabled hgranule

theorem translateStage_of_unusable_tnsz (htnsz : effectiveTnSZ s st (stageRange st ia) inSpace = none) :
    translateStage o s c st ia inSpace = translationFaultRun st := by
  simp [translateStage, translationFaultRun, henabled, hgranule, htnsz]

theorem translateStage_of_out_of_range {t : Nat}
    (htnsz : effectiveTnSZ s st (stageRange st ia) inSpace = some t)
    (hrange : inRange (stageRange st ia) (iaSize t) ia = false) :
    translateStage o s c st ia inSpace = translationFaultRun st := by
  simp [translateStage, translationFaultRun, henabled, hgranule, htnsz, hrange]

end Checks

/-- Settles O49: the range check comes after the TnSZ and before the walk, whatever the stage. -/
theorem addressOutsideRangeFaults : Obligations.AddressOutsideRangeFaults := by
  unfold Obligations.AddressOutsideRangeFaults
  intro o s c st ia t inSpace henabled hgranule htnsz hrange
  exact translateStage_of_out_of_range henabled hgranule htnsz hrange

/-- A disabled stage 1 checks its address against the implemented PA size (R329). -/
theorem flatStage_one_of_too_large (o : OpenParameters) {s : State} (c : Context) (r : Regime) {ia : Nat}
    (inSpace : Option PASpace) (h : 2 ^ paSize s.cfg ≤ ia) :
    flatStage o s c (.one r) ia inSpace = .fault { stage := .one, level := 0, kind := .addressSize } :=
  if_pos ⟨rfl, h⟩

/-- Settles O48: a disabled stage makes no walk, and the check of a disabled stage 1 fails. -/
theorem disabledStage1AddressSizeFault : Obligations.DisabledStage1AddressSizeFault := by
  unfold Obligations.DisabledStage1AddressSizeFault
  intro o s c r va hdisabled hlarge
  rw [translateStage_disabled hdisabled]
  exact flatStage_one_of_too_large o c r none hlarge

/-- Settles O55: the PA is the OA of the last stage that is enabled, or the VA, which a disabled stage 1 checks. -/
theorem translationFitsThePASize : Obligations.TranslationFitsThePASize := by
  unfold Obligations.TranslationFitsThePASize
  intro o s c va pa space info h
  exact translate_lt h

end Sys2Proof.Machine
end

section
/-! SUPPORT. The TnSZ field of a stage (R322, R325): the stage depends on it through the TnSZ in use alone, so that two
values of the field with one TnSZ in use translate alike. -/

namespace Sys2Proof.Machine

@[simp] theorem State.withField_enabled (s : State) (f : SysField) (v : Nat) :
    (s.withField f v).enabled = s.enabled := rfl

@[simp] theorem granuleOf_withField (s : State) (f : SysField) (v : Nat) (st : Stage) (range : VARange) :
    granuleOf (s.withField f v) st range = granuleOf s st range := rfl

section TnszField

variable (s : State) {f : SysField} (hf : f.width = some 6) (v : Nat)
include hf

/-- Setting a TnSZ leaves every field of another width. -/
theorem ds_withField_tnsz (r : OASizeReg) : (s.withField f v).regs.ds r = s.regs.ds r :=
  bit_withField (.ds r) (fun _ => rfl) (by rintro rfl; cases hf) v

theorem d128_withField_tnsz (r : D128Reg) : (s.withField f v).regs.d128 r = s.regs.d128 r :=
  bit_withField (.d128 r) (fun _ => rfl) (by rintro rfl; cases hf) v

theorem usesVMSAv9_128_withField_tnsz (st : Stage) :
    usesVMSAv9_128 (s.withField f v) st = usesVMSAv9_128 s st := by
  unfold usesVMSAv9_128
  cases d128ControlOf st with
  | none => rfl
  | some r => simp only [d128_withField_tnsz s hf, State.withField_cfg]

theorem systemOf_withField_tnsz (st : Stage) : systemOf (s.withField f v) st = systemOf s st := by
  rw [systemOf, usesVMSAv9_128_withField_tnsz s hf, systemOf]

theorem maxOASize_withField_tnsz (st : Stage) (range : VARange) :
    maxOASize (s.withField f v) st range = maxOASize s st range := by
  unfold maxOASize
  rw [systemOf_withField_tnsz s hf, ds_withField_tnsz s hf, granuleOf_withField, State.withField_cfg]

theorem minT0SZS2_withField_tnsz (w : World) : minT0SZS2 (s.withField f v) w = minT0SZS2 s w := by
  unfold minT0SZS2
  rw [systemOf_withField_tnsz s hf, State.withField_cfg]

theorem minTnSZS1_withField_tnsz (r : Regime) (range : VARange) :
    minTnSZS1 (s.withField f v) r range = minTnSZS1 s r range := by
  unfold minTnSZS1
  rw [systemOf_withField_tnsz s hf, ds_withField_tnsz s hf, granuleOf_withField, State.withField_cfg]

theorem minTnSZ_withField_tnsz (st : Stage) (range : VARange) :
    minTnSZ (s.withField f v) st range = minTnSZ s st range := by
  cases st with
  | one r => exact minTnSZS1_withField_tnsz s hf v r range
  | two w => exact minT0SZS2_withField_tnsz s hf v w

theorem belowMinTnSZ_withField_tnsz (st : Stage) :
    belowMinTnSZ (s.withField f v) st = belowMinTnSZ s st := by
  cases st with
  | one r => rfl
  | two w => simp only [belowMinTnSZ, minT0SZS2_withField_tnsz s hf, State.withField_cfg]

theorem tnszInUse_withField_tnsz (st : Stage) (range : VARange) (t : Nat) :
    tnszInUse (s.withField f v) st range t = tnszInUse s st range t := by
  unfold tnszInUse
  rw [minTnSZ_withField_tnsz s hf, belowMinTnSZ_withField_tnsz s hf, granuleOf_withField, State.withField_cfg]

theorem initialLevels_withField_tnsz (st : Stage) :
    initialLevels (s.withField f v) st = initialLevels s st := by
  cases st with
  | one r => rfl
  | two w =>
    simp only [initialLevels, stage2Row, systemOf_withField_tnsz s hf, granuleOf_withField,
      State.withField_cfg]
    rfl

end TnszField

section SameTnSZ

variable (o : OpenParameters) (s : State) (c : Context) (st : Stage) (inSpace : Option PASpace) {v v' : Nat}

/-- The walk is shown the TnSZ in use and not the field. -/
theorem walkInput_withField_tnszUsed_congr {range : VARange}
    (h : effectiveTnSZ (s.withField (tnszUsed st range inSpace) v) st range inSpace =
      effectiveTnSZ (s.withField (tnszUsed st range inSpace) v') st range inSpace) (ia : Nat) :
    walkInput (s.withField (tnszUsed st range inSpace) v) c st range ia inSpace =
      walkInput (s.withField (tnszUsed st range inSpace) v') c st range ia inSpace := by
  have hread : ∀ f, f ≠ tnszUsed st range inSpace →
      (s.withField (tnszUsed st range inSpace) v).regs.read f =
        (s.withField (tnszUsed st range inSpace) v').regs.read f := fun f hne =>
    (s.regs.read_write_ne v hne).trans (s.regs.read_write_ne v' hne).symm
  unfold walkInput walkRegs
  rw [h]
  congr 1
  refine List.map_congr_left fun f _ => ?_
  split
  · rfl
  · next hne => rw [hread f hne, State.withField_cfg, State.withField_cfg]

theorem walk_withField_tnszUsed_congr {range : VARange}
    (h : effectiveTnSZ (s.withField (tnszUsed st range inSpace) v) st range inSpace =
      effectiveTnSZ (s.withField (tnszUsed st range inSpace) v') st range inSpace) (ia : Nat) :
    walk o (s.withField (tnszUsed st range inSpace) v) c st range ia inSpace =
      walk o (s.withField (tnszUsed st range inSpace) v') c st range ia inSpace := by
  have hwidth := width_tnszUsed st range inSpace
  simp only [walk, walkInput_withField_tnszUsed_congr s c st inSpace h, granuleOf_withField,
    initialLevels_withField_tnsz s hwidth, maxOASize_withField_tnsz s hwidth, State.withField_cfg]

theorem translateStage_withField_tnszUsed_congr {ia : Nat}
    (h : effectiveTnSZ (s.withField (tnszUsed st (stageRange st ia) inSpace) v) st (stageRange st ia) inSpace =
      effectiveTnSZ (s.withField (tnszUsed st (stageRange st ia) inSpace) v') st (stageRange st ia) inSpace) :
    translateStage o (s.withField (tnszUsed st (stageRange st ia) inSpace) v) c st ia inSpace =
      translateStage o (s.withField (tnszUsed st (stageRange st ia) inSpace) v') c st ia inSpace := by
  have hwalk := walk_withField_tnszUsed_congr o s c st inSpace h ia
  unfold translateStage
  dsimp only
  rw [granuleOf_withField, granuleOf_withField, h, hwalk]
  rfl

end SameTnSZ

/-- A TnSZ field reads back every value from 0 to 63 (R126, D26). -/
theorem read_write_tnszUsed (r : SysRegs) (st : Stage) (range : VARange) (inSpace : Option PASpace) {v : Nat}
    (hv : v < 64) : (r.write (tnszUsed st range inSpace) v).read (tnszUsed st range inSpace) = v :=
  r.read_write_same _ v ((SysField.fits_iff_of_width (width_tnszUsed st range inSpace) v).mpr hv)

theorem effectiveTnSZ_withField_tnszUsed (s : State) (st : Stage) (ia : Nat) (inSpace : Option PASpace) {v : Nat}
    (hv : v < 64) :
    effectiveTnSZ (s.withField (tnszUsed st (stageRange st ia) inSpace) v) st (stageRange st ia) inSpace =
      tnszInUse s st (stageRange st ia) v := by
  have hread : (s.withField (tnszUsed st (stageRange st ia) inSpace) v).regs.read
      (tnszUsed st (stageRange st ia) inSpace) = v := read_write_tnszUsed s.regs st _ inSpace hv
  rw [effectiveTnSZ_eq, hread, tnszInUse_withField_tnsz s (width_tnszUsed st _ inSpace)]

section FieldValue

variable (o : OpenParameters) {s : State} (c : Context) {st : Stage} {ia v : Nat} (inSpace : Option PASpace)
  (hv : v < 64)
include hv

/-- Two values of the field with one TnSZ in use translate alike. -/
theorem translateStage_withField_of_tnszInUse_eq {v' : Nat} (hv' : v' < 64)
    (h : tnszInUse s st (stageRange st ia) v = tnszInUse s st (stageRange st ia) v') :
    translateStage o (s.withField (tnszUsed st (stageRange st ia) inSpace) v) c st ia inSpace =
      translateStage o (s.withField (tnszUsed st (stageRange st ia) inSpace) v') c st ia inSpace := by
  refine translateStage_withField_tnszUsed_congr o s c st inSpace ?_
  rw [effectiveTnSZ_withField_tnszUsed s st ia inSpace hv, effectiveTnSZ_withField_tnszUsed s st ia inSpace hv', h]

/-- A value of the field with no TnSZ in use is a fault. -/
theorem translateStage_withField_of_tnszInUse_none (henabled : s.enabled.get st = true)
    (hgranule : granuleSupported s.cfg st.number (granuleOf s st (stageRange st ia)) = true)
    (h : tnszInUse s st (stageRange st ia) v = none) :
    translateStage o (s.withField (tnszUsed st (stageRange st ia) inSpace) v) c st ia inSpace =
      translationFaultRun st :=
  translateStage_of_unusable_tnsz (s := s.withField _ v) henabled hgranule
    ((effectiveTnSZ_withField_tnszUsed s st ia inSpace hv).trans h)

end FieldValue

/-- Settles O43: the value and the maximum have one TnSZ in use where the implementation clamps, and the value has none
where it faults. -/
theorem tnszAboveMaximum : Obligations.TnSZAboveMaximum := by
  unfold Obligations.TnSZAboveMaximum
  intro o s c st ia t inSpace f g henabled hgranule hlarge ht
  refine ⟨fun hclamp => ?clamped, fun hfault => ?faults, read_write_tnszUsed s.regs st _ inSpace ht⟩
  case clamped =>
    have hmax : tnszInUse s st (stageRange st ia) (maxTnSZ s.cfg g) = some (maxTnSZ s.cfg g) :=
      tnszInUse_of_between (minTnSZ_le_maxTnSZ s st _ g) (Nat.le_refl _)
    exact translateStage_withField_of_tnszInUse_eq o c inSpace ht (hlarge.trans ht)
      ((tnszInUse_of_clampToMax hclamp hlarge).trans hmax.symm)
  case faults =>
    exact translateStage_withField_of_tnszInUse_none o c inSpace ht henabled hgranule
      (tnszInUse_of_tooLarge_fault hfault hlarge)

theorem belowMinTnSZ_one_of_treatAs16 {s : State}
    (h : s.cfg.featLVA = false ∧ s.cfg.s1TnszTooSmall = .treatAs16) (r : Regime) :
    belowMinTnSZ s (.one r) = some 16 := if_pos h

theorem belowMinTnSZ_one_of_fault {s : State}
    (h : s.cfg.featLVA = true ∨ s.cfg.s1TnszTooSmall = .fault) (r : Regime) :
    belowMinTnSZ s (.one r) = none := by
  refine if_neg ?_
  rintro ⟨hlva, htreat⟩
  obtain h | h := h
  · simp [hlva] at h
  · simp [htreat] at h

/-- Settles O44: the value and 16, which is within the bounds, have one TnSZ in use where the implementation chose
that, and the value has none otherwise. -/
theorem stage1TnSZBelowMinimum : Obligations.Stage1TnSZBelowMinimum := by
  unfold Obligations.Stage1TnSZBelowMinimum
  intro o s c r ia t f henabled hgranule hsmall
  have h16 : minTnSZ s (.one r) (selectRange r ia) ≤ 16 := (minTnSZS1_bounds s r _).2
  have ht : t < 64 := hsmall.trans_le (h16.trans (by decide))
  have hbelow : tnszInUse s (.one r) (selectRange r ia) t = belowMinTnSZ s (.one r) :=
    tnszInUse_of_lt_minTnSZ hsmall
  refine ⟨fun htreat => ?treatedAs16, fun hfault => ?faults, read_write_tnszUsed s.regs (.one r) _ none ht⟩
  case treatedAs16 =>
    have hmost : 16 ≤ maxTnSZ s.cfg (granuleOf s (.one r) (selectRange r ia)) :=
      Nat.le_trans (by decide) (maxTnSZ_ge s.cfg _)
    have hsame : tnszInUse s (.one r) (selectRange r ia) t = tnszInUse s (.one r) (selectRange r ia) 16 := by
      rw [hbelow, belowMinTnSZ_one_of_treatAs16 htreat, tnszInUse_of_between h16 hmost]
    exact translateStage_withField_of_tnszInUse_eq (st := .one r) o c none ht (by decide) hsame
  case faults =>
    exact translateStage_withField_of_tnszInUse_none (st := .one r) o c none ht henabled hgranule
      (hbelow.trans (belowMinTnSZ_one_of_fault hfault r))

end Sys2Proof.Machine
end

section
/-! SUPPORT. The independence of the two VA ranges of a stage 1 (R304, R316, R143): what one range is configured by
serves neither the other range nor a stage 2. -/

namespace Sys2Proof

/-- The two ranges of a two-range regime, in either order. -/
def VARange.Opposite (a b : VARange) : Prop := a = .lower ∧ b = .upper ∨ a = .upper ∧ b = .lower

theorem VARange.opposite_of_selectRange_ne {r : Regime} {a : VARange} {va : Nat} (htwo : twoVARanges r = true)
    (ha : a = .lower ∨ a = .upper) (hne : selectRange r va ≠ a) : a.Opposite (selectRange r va) := by
  have hsel : selectRange r va = .upper ∨ selectRange r va = .lower := by
    rw [selectRange_of_twoVARanges htwo]
    exact ite_eq_or_eq _ _ _
  obtain rfl | rfl := ha
  · exact .inl ⟨rfl, hsel.resolve_right hne⟩
  · exact .inr ⟨rfl, hsel.resolve_left hne⟩

section Opposite

variable {a b : VARange} (hab : a.Opposite b)
include hab

theorem RangeGranules.get_set_of_opposite (t : RangeGranules) (g : Granule) : (t.set a g).get b = t.get b := by
  obtain ⟨rfl, rfl⟩ | ⟨rfl, rfl⟩ := hab <;> rfl

variable {r : Regime} (htwo : twoVARanges r = true)
include htwo

/-- The TnSZ and the table base register of a range serve no walk in the other one. -/
theorem not_fieldServes_of_opposite (inSpace : Option PASpace) :
    fieldServes b inSpace (tnszField r a) = false ∧ fieldServes b inSpace (.rest (tableBase r a)) = false := by
  obtain ⟨w, rfl | rfl⟩ := (twoVARanges_iff r).mp htwo <;> obtain ⟨rfl, rfl⟩ | ⟨rfl, rfl⟩ := hab <;>
    exact ⟨rfl, rfl⟩

theorem ne_of_mem_walkFields_opposite {inSpace : Option PASpace} {f : SysField}
    (hf : f ∈ walkFields (.one r) b inSpace) : f ≠ tnszField r a ∧ f ≠ .rest (tableBase r a) := by
  have hserves : fieldServes b inSpace f = true := ((mem_walkFields_iff ..).mp hf).2
  obtain ⟨htnsz, hbase⟩ := not_fieldServes_of_opposite hab htwo inSpace
  constructor <;> rintro rfl
  · simp [htnsz] at hserves
  · simp [hbase] at hserves

end Opposite

/-- The row of the Secure stage 2 has every register that a row of a stage 2 has. -/
theorem controllingRegisters_two_subset (w : World) :
    ∀ g ∈ controllingRegisters (.two w), g ∈ controllingRegisters (.two .secure) := by
  cases w <;> decide

theorem tnszUsed_two_reg_mem (w : World) (range : VARange) (inSpace : Option PASpace) :
    (tnszUsed (.two w) range inSpace).reg ∈ controllingRegisters (.two .secure) := by
  cases h : inSpace.getD .nonSecure <;> rw [tnszUsed, h] <;> decide

/-- No stage 2 has the TCR or a TTBR of a stage 1 in its row. -/
theorem stage1_regs_not_mem_two (r : Regime) (a : VARange) :
    (tnszField r a).reg ∉ controllingRegisters (.two .secure) ∧
      tableBase r a ∉ controllingRegisters (.two .secure) := by
  cases r <;> cases a <;> simp [tnszField, tableBase, SysField.reg, controllingRegisters]

namespace Machine

/-- The state with the TnSZ, the table base register and the granule of one range of a stage 1 replaced. -/
def State.withRange (s : State) (r : Regime) (a : VARange) (t b : Nat) (g : Granule) : State :=
  { s with
    regs := (s.regs.write (tnszField r a) t).write (.rest (tableBase r a)) b
    granules := s.granules.set (.one r) ((s.granules.get (.one r)).set a g) }

section WithRange

variable (s : State) (r : Regime) (a : VARange) (t b : Nat) (g : Granule)

theorem read_withRange {f : SysField} (htnsz : f ≠ tnszField r a) (hbase : f ≠ .rest (tableBase r a)) :
    (s.withRange r a t b g).regs.read f = s.regs.read f :=
  (SysRegs.read_write_ne _ b hbase).trans (s.regs.read_write_ne t htnsz)

/-- A field of a stage 2 is as before. -/
theorem read_withRange_of_stage2_reg {f : SysField} (hf : f.reg ∈ controllingRegisters (.two .secure)) :
    (s.withRange r a t b g).regs.read f = s.regs.read f := by
  obtain ⟨htnsz, hbase⟩ := stage1_regs_not_mem_two r a
  refine read_withRange s r a t b g ?_ ?_ <;> rintro rfl
  · exact htnsz hf
  · exact hbase hf

theorem translateStage_two_withRange (o : OpenParameters) (c : Context) (w : World) (ia : Nat)
    (inSpace : Option PASpace) :
    translateStage o (s.withRange r a t b g) c (.two w) ia inSpace =
      translateStage o s c (.two w) ia inSpace :=
  translateStage_congr o c rfl rfl rfl rfl rfl (granuleOf_set_ne s (by simp) _ _)
    (read_withRange_of_stage2_reg s r a t b g (tnszUsed_two_reg_mem w _ inSpace)) fun _ hf =>
    read_withRange_of_stage2_reg s r a t b g (controllingRegisters_two_subset w _ (reg_mem_of_mem_walkFields hf))

variable {r a}

/-- An address of the other range is translated with other fields and another granule. -/
theorem translateStage_one_withRange (o : OpenParameters) (c : Context) (htwo : twoVARanges r = true) {ia : Nat}
    (hab : a.Opposite (selectRange r ia)) (inSpace : Option PASpace) :
    translateStage o (s.withRange r a t b g) c (.one r) ia inSpace =
      translateStage o s c (.one r) ia inSpace := by
  have hread : ∀ f ∈ walkFields (.one r) (selectRange r ia) inSpace,
      (s.withRange r a t b g).regs.read f = s.regs.read f := fun f hf => by
    obtain ⟨htnsz, hbase⟩ := ne_of_mem_walkFields_opposite hab htwo hf
    exact read_withRange s r a t b g htnsz hbase
  have hgranule : granuleOf (s.withRange r a t b g) (.one r) (selectRange r ia) =
      granuleOf s (.one r) (selectRange r ia) :=
    (granuleOf_set_same s (.one r) _ _).trans (RangeGranules.get_set_of_opposite hab _ g)
  exact translateStage_congr o c rfl rfl rfl rfl rfl hgranule
    (hread _ (tnszField_mem_walkFields (fun _ => htwo) inSpace)) hread

end WithRange

/-- Settles O59: neither stage depends on what the other range is configured by. -/
theorem vaRangesAreIndependent : Obligations.VARangesAreIndependent := by
  unfold Obligations.VARangesAreIndependent
  intro o s c r range va t b g htwo hrange hne
  have hab : range.Opposite (selectRange r va) := VARange.opposite_of_selectRange_ne htwo hrange hne
  show translateIn o (s.withRange r range t b g) c r va = translateIn o s c r va
  unfold translateIn
  simp only [translateStage_one_withRange s t b g o c htwo hab, translateStage_two_withRange]
  rfl

end Machine

end Sys2Proof
end

section
/-! SUPPORT. What reading an identification field shows (R48 to R50, log entry 11). -/

namespace Sys2Proof.Machine

/-- A TGran field reports stage 1, with FEAT_GTG and without it (R142). -/
theorem idValue_tgran (o : OpenParameters) (cfg : Config) (g : Granule) :
    idValue o cfg (.tgran g) = o.tgranValue (.tgran g) (granuleSupported cfg .one g) := by
  cases g <;> rfl

/-- With FEAT_GTG a TGran_2 field reports stage 2 (R148). -/
theorem granuleSupported_withGtg {cfg : Config} (h : cfg.featGTG = true) (g : Granule) :
    granuleSupported { cfg with featGTG := true } .two g = granuleSupported cfg .two g := by
  rw [← h]

/-- Settles O20: from a level that can access the register a read adds to the results what the field holds, or what the
identification field reads as. -/
theorem readsShowTheRegister : Obligations.ReadsShowTheRegister := by
  unfold Obligations.ReadsShowTheRegister
  intro o s f g
  refine ⟨fun hel => opReadField_of_accessible ((SysReg.accessibleFrom_iff _ _).mpr hel), fun hel => ?idFields⟩
  case idFields =>
    have hid : ∀ i, perform o (.readId i) s =
        .next { s with observations := s.observations ++ [.idField i (idValue o s.cfg i)] } := fun i =>
      opReadId_of_accessible ((idAccessibleFrom_iff s.el).mpr hel)
    refine ⟨hid .paRange, idValue_tgran o s.cfg g ▸ hid (.tgran g), ?_⟩
    exact ⟨granuleSupported { s.cfg with featGTG := true } .two g,
      fun hgtg => granuleSupported_withGtg hgtg g, hid (.tgranStage2 g)⟩

end Sys2Proof.Machine
end

section
/-! SUPPORT. The initial lookup level of a stage 2 (Table D8-9, R356, R357), and the first read of a walk (R85). -/

namespace Sys2Proof

/-- Table D8-9 has level 3 in every row (R356). -/
theorem validInitialLevels_three (p : Nat) (g : Granule) : (3 : Int) ∈ validInitialLevels p g := by
  cases g <;> simp only [validInitialLevels] <;> (repeat' split) <;> exact List.mem_cons_self

/-- Only level 3 is subject to a condition (R357). -/
theorem mem_permittedInitialLevels_iff (cfg : Config) (p : Nat) (g : Granule) (a : Bool) (l : Int) :
    l ∈ permittedInitialLevels cfg p g a ↔
      l ∈ validInitialLevels p g ∧ (l = 3 → g ≠ .g4KB ∨ cfg.featTTST = true ∧ a = true) := by
  have hlacks : g = .g4KB ∧ (cfg.featTTST && a) = false ↔ ¬ (g ≠ .g4KB ∨ cfg.featTTST = true ∧ a = true) := by
    simp
  unfold permittedInitialLevels
  split
  · next h => simp only [List.mem_filter, decide_eq_true_iff, imp_iff_not (hlacks.mp h)]
  · next h => simp only [not_not.mp (mt hlacks.mpr h), implies_true, and_true]

namespace Machine

/-- A walk reads at least one entry, and the first one at its initial level. -/
theorem tableReads_eq_cons (o : OpenParameters) (inp : WalkInput) (start : Int) (more : Nat) :
    ∃ first rest, tableReads o inp start more = first :: rest ∧ first.level = start := by
  unfold tableReads
  rw [List.range_succ_eq_map, List.map_cons]
  exact ⟨_, _, rfl, Int.add_zero start⟩

theorem walk_reads_eq_cons (o : OpenParameters) (s : State) (c : Context) (st : Stage) (range : VARange)
    (ia : Nat) (inSpace : Option PASpace) :
    ∃ first rest, (walk o s c st range ia inSpace).reads = first :: rest ∧ first.level ∈ initialLevels s st := by
  obtain ⟨inp, start, more, hstart, -, -, -, -, hreads, -⟩ := walk_cases o s c st range ia inSpace
  obtain ⟨first, rest, hcons, rfl⟩ := tableReads_eq_cons o inp start more
  exact ⟨first, rest, hreads.trans hcons, hstart⟩

/-- Settles O35: the table is evaluated, and the first read of a walk is at one of its stage's initial levels. -/
theorem stage2WalkStartsAtPermittedLevel : Obligations.Stage2WalkStartsAtPermittedLevel := by
  unfold Obligations.Stage2WalkStartsAtPermittedLevel
  refine ⟨by decide, by decide, by decide, fun cfg p g a => ⟨?level3, fun l hl => ?otherLevels⟩,
    fun o s c w ia inSpace => walk_reads_eq_cons o s c (.two w) .single ia inSpace⟩
  case level3 => simp [mem_permittedInitialLevels_iff, validInitialLevels_three]
  case otherLevels => simp [mem_permittedInitialLevels_iff, hl]

end Machine

end Sys2Proof
end

section
/-! SUPPORT. The IPA size (R351, R354, R355, R358, D16): the size that the minimum T0SZ of a stage 2 configures, and a
T0SZ below that minimum. -/

namespace Sys2Proof.Machine

/-- Table D8-8 as sizes (R354, R355): with EL1 in AArch32 state no row is below 40 bits. -/
theorem iaSize_minT0SZS2 {s : State} (h : s.cfg.wellFormed = true) (w : World) :
    iaSize (minT0SZS2 s w) =
      if usesAArch64 s.cfg w.ss .el1 = true then stage2Row s w else max (stage2Row s w) 40 := by
  have hsize : paRangeBits s.cfg.paRange = some (paSize s.cfg) :=
    paSize_of_configRefusal (configRefusal_of_wellFormed h)
  obtain hp | hp | hp | hp | hp | hp | hp | hp := paRangeBits_cases hsize
  -- Only the row of 56 bits goes by the translation system (R355).
  on_goal 8 =>
    cases hsys : systemOf s (.two w) <;> simp [minT0SZS2, stage2Row, iaSize, hp, hsys]
  all_goals
    simp only [minT0SZS2, stage2Row, iaSize, hp]
    split <;> rfl

/-- Settles O46: the size of the minimum T0SZ, by the Execution state of EL1. -/
theorem largestIPASizeIsThePASize : Obligations.LargestIPASizeIsThePASize := by
  unfold Obligations.LargestIPASizeIsThePASize
  intro s w hw size
  have hlargest := iaSize_minT0SZS2 hw w
  exact ⟨fun h64 => hlargest.trans (if_pos h64), fun h32 => hlargest.trans (if_neg (by simp [h32]))⟩

theorem belowMinTnSZ_two_of_treatAsMin {s : State}
    (h : s.cfg.featLPA = false ∧ s.cfg.s2T0szTooSmall = .treatAsMin) (w : World) :
    belowMinTnSZ s (.two w) = some (minT0SZS2 s w) := if_pos h

theorem belowMinTnSZ_two_of_fault {s : State}
    (h : s.cfg.featLPA = true ∨ s.cfg.s2T0szTooSmall = .fault) (w : World) :
    belowMinTnSZ s (.two w) = none :=
  if_neg fun ⟨hlpa, htreat⟩ => by simp [hlpa, htreat] at h

/-- Settles O45: the value and the minimum have one TnSZ in use where the implementation chose that without FEAT_LPA,
and the value has none otherwise. -/
theorem stage2T0SZBelowMinimum : Obligations.Stage2T0SZBelowMinimum := by
  unfold Obligations.Stage2T0SZBelowMinimum
  intro o s c w ia t space f henabled hgranule hsmall
  have hmin : minT0SZS2 s w < 64 := (minT0SZS2_le s w).trans_lt (by decide)
  have ht : t < 64 := hsmall.trans hmin
  have hbelow : tnszInUse s (.two w) .single t = belowMinTnSZ s (.two w) := tnszInUse_of_lt_minTnSZ hsmall
  refine ⟨fun htreat => ?treatedAsMin, fun hfault => ?faults,
    read_write_tnszUsed s.regs (.two w) .single (some space) ht⟩
  case treatedAsMin =>
    have hsame : tnszInUse s (.two w) .single (minT0SZS2 s w) = some (minT0SZS2 s w) :=
      tnszInUse_of_between (Nat.le_refl _) (minTnSZ_le_maxTnSZ s (.two w) .single _)
    exact translateStage_withField_of_tnszInUse_eq (st := .two w) o c (some space) ht hmin
      ((hbelow.trans (belowMinTnSZ_two_of_treatAsMin htreat w)).trans hsame.symm)
  case faults =>
    exact translateStage_withField_of_tnszInUse_none (st := .two w) o c (some space) ht henabled hgranule
      (hbelow.trans (belowMinTnSZ_two_of_fault hfault w))

end Sys2Proof.Machine
end

section
/-! SUPPORT. The faults of a translation (R329, R381, R384): which stage raised one, said once for a disabled stage and
once for the composition of the stages. -/

namespace Sys2Proof.Machine

section Faults

variable {o : OpenParameters} {s : State} {c : Context} {f : MMUFault}

/-- Only a stage 1 faults while it is disabled, by the check of R329. -/
theorem translateStage_disabled_fault {st : Stage} {ia : Nat} {inSpace : Option PASpace}
    (hdisabled : s.enabled.get st = false) (h : (translateStage o s c st ia inSpace).result = .fault f) :
    st.number = .one ∧ f = { stage := .one, level := 0, kind := .addressSize } ∧ 2 ^ paSize s.cfg ≤ ia := by
  rw [translateStage_disabled hdisabled] at h
  simp only [flatStage] at h
  split at h
  · next hcheck =>
    obtain ⟨hone, hlarge⟩ := hcheck
    cases h
    exact ⟨hone, rfl, hlarge⟩
  · cases h

/-- Everything the composition of the stages can come to when it faults. -/
theorem translateIn_fault {r : Regime} {va : Nat} (h : (translateIn o s c r va).result = .fault f) :
    (translateStage o s c (.one r) va none).result = .fault f ∨
      ∃ w oa space level info, stage2Of s.cfg r c = some w ∧
        (translateStage o s c (.one r) va none).result = .ok oa space level info ∧
        (translateStage o s c (.two w) oa (some space)).result = .fault f := by
  cases h1 : (translateStage o s c (.one r) va none).result with
  | fault f1 =>
    rw [translateIn_of_stage1_fault h1] at h
    cases h
    exact .inl rfl
  | refused x =>
    rw [translateIn_of_stage1_refused h1] at h
    cases h
  | ok oa space level info =>
    cases hstage : stage2Of s.cfg r c with
    | none =>
      rw [translateIn_of_no_stage2 h1 hstage] at h
      cases h
    | some w =>
      rw [translateIn_of_stage2 h1 hstage] at h
      refine .inr ⟨w, oa, space, level, info, rfl, rfl, ?_⟩
      cases h2 : (translateStage o s c (.two w) oa (some space)).result with
      | fault f2 => rw [h2] at h; cases h; rfl
      | ok | refused => rw [h2] at h; cases h

end Faults

/-- Settles O57: the fault came from one of the two stages, and it carries that stage's number. -/
theorem faultsBelongToTheirStage : Obligations.FaultsBelongToTheirStage := by
  unfold Obligations.FaultsBelongToTheirStage
  intro o s c r va f h
  obtain h1 | ⟨w, oa, space, level, info, hstage, h1, h2⟩ := translateIn_fault h
  · have hnumber : f.stage = .one := translateStage_fault h1
    refine ⟨fun _ => ⟨h1, fun hdisabled => ?_⟩, fun htwo => by simp [hnumber] at htwo⟩
    exact (translateStage_disabled_fault hdisabled h1).2
  · have hnumber : f.stage = .two := translateStage_fault h2
    have henabled : s.enabled.get (.two w) = true := by
      by_contra hdisabled
      obtain ⟨hone, -⟩ := translateStage_disabled_fault (Bool.eq_false_of_not_eq_true hdisabled) h2
      cases hone
    exact ⟨fun hone => by simp [hnumber] at hone,
      fun _ => ⟨w, oa, space, level, info, hstage, henabled, h1, h2⟩⟩

end Sys2Proof.Machine
end

section
/-! SUPPORT. The instruction fetch (R24, R82, R92, R424): the enables it sees, and its places for each result of the
translation of the PC and, where the four bytes span two pages, of the second page. -/

namespace Sys2Proof.Machine

/-- A stage that is not unsettled is seen in its current state. -/
theorem get_fetchEnabled_of_not_mem (choice : Stage → Bool) (enabled : PerStage Bool) {st : Stage}
    {unsettled : List Stage} (h : st ∉ unsettled) :
    (fetchEnabled choice enabled unsettled).get st = enabled.get st := by
  induction unsettled with
  | nil => rfl
  | cons st' rest ih =>
    obtain ⟨hne, hrest⟩ := not_or.mp (List.mem_cons.not.mp h)
    calc (fetchEnabled choice enabled (st' :: rest)).get st
      _ = (fetchEnabled choice enabled rest).get st := PerStage.get_set_ne _ _ hne
      _ = enabled.get st := ih hrest

@[simp] theorem State.forFetch_ctx (o : OpenParameters) (s : State) : (s.forFetch o).ctx = s.ctx := rfl

@[simp] theorem State.forFetch_pc (o : OpenParameters) (s : State) : (s.forFetch o).pc = s.pc := rfl

theorem consecutive_eq_map_range (space : PASpace) (pa n : Nat) :
    consecutive space pa n = (List.range n).map fun i => (space, pa + i) := by
  induction n generalizing pa with
  | zero => rfl
  | succ n ih =>
    simp [consecutive, ih, List.range_succ_eq_map, Nat.add_assoc, Nat.add_comm 1]

theorem bytesInPage_of_one_page {va : VA} (h : va.toNat % 4096 ≤ 4092) : bytesInPage va = 4 := by
  simp only [bytesInPage, smallestPage]
  omega

theorem bytesInPage_of_two_pages {va : VA} {n : Nat} (h : va.toNat % 4096 + n = 4096) (hn : n < 4) :
    bytesInPage va = n := by
  simp only [bytesInPage, smallestPage]
  omega

/-- The places of `n` bytes from the address on that a translation gives. -/
def Translation.places (n : Nat) : Translation → FetchPlaces
  | .ok pa space _ => .ok ((List.range n).map fun i => (space, pa + i))
  | .fault f => .fault f
  | .refused r => .refused r

theorem placesInPage_eq (o : OpenParameters) (s : State) (va : VA) (n : Nat) :
    placesInPage o s va n =
      { places := (translate o s s.ctx va).result.places n, reads := (translate o s s.ctx va).reads } := by
  cases h : (translate o s s.ctx va).result with
  | ok pa space info => simp [placesInPage, h, Translation.places, consecutive_eq_map_range]
  | fault f => simp [placesInPage, h, Translation.places]
  | refused r => simp [placesInPage, h, Translation.places]

/-- Places of a second page, with those of the first one before them. -/
def FetchPlaces.after (l : List (PASpace × Nat)) : FetchPlaces → FetchPlaces
  | .ok l' => .ok (l ++ l')
  | .fault f => .fault f
  | .refused r => .refused r

section Fetch

variable {o : OpenParameters} {s : State}

theorem fetchPlaces_of_one_page (h : bytesInPage s.pc = 4) :
    fetchPlaces o s = placesInPage o (s.forFetch o) s.pc 4 := by
  simp [fetchPlaces, h]

/-- A translation of the PC that gives no places ends the fetch, whether there is a second page or not. -/
theorem fetchPlaces_of_first_page_fails {x : FetchPlaces} (hx : ∀ l, x ≠ .ok l)
    (h : (translate o (s.forFetch o) s.ctx s.pc).result.places (bytesInPage s.pc) = x) :
    (fetchPlaces o s).places = x := by
  have hfirst : (placesInPage o (s.forFetch o) s.pc (bytesInPage s.pc)).places = x := by
    rw [placesInPage_eq]
    exact h
  unfold fetchPlaces
  dsimp only
  split
  · exact hfirst
  · split
    · next l hl => exact absurd (hfirst.symm.trans hl) (hx l)
    · exact hfirst

/-- Where the bytes span two pages, the second page is translated too. -/
theorem fetchPlaces_of_two_pages {n : Nat} {l : List (PASpace × Nat)} (hn : bytesInPage s.pc = n) (hlt : n < 4)
    (h : (placesInPage o (s.forFetch o) s.pc n).places = .ok l) :
    fetchPlaces o s =
      { places := (placesInPage o (s.forFetch o) (s.pc + BitVec.ofNat 64 n) (4 - n)).places.after l
        reads := (placesInPage o (s.forFetch o) s.pc n).reads ++
          (placesInPage o (s.forFetch o) (s.pc + BitVec.ofNat 64 n) (4 - n)).reads } := by
  simp only [fetchPlaces, State.forFetch_pc, hn, if_neg (Nat.ne_of_lt hlt), h]
  cases (placesInPage o (s.forFetch o) (s.pc + BitVec.ofNat 64 n) (4 - n)).places <;> rfl

end Fetch

/-- Settles O25: by the number of the bytes in the first page, and by the result of each page's translation. -/
theorem fetchTranslatesThePC : Obligations.FetchTranslatesThePC := by
  unfold Obligations.FetchTranslatesThePC
  intro o s
  refine ⟨rfl, fun st => get_fetchEnabled_of_not_mem _ _,
    fun f h => fetchPlaces_of_first_page_fails nofun (by rw [h]; rfl),
    fun r h => fetchPlaces_of_first_page_fails nofun (by rw [h]; rfl), fun pa space info hok => ⟨?onePage, ?twoPages⟩⟩
  case onePage =>
    intro hpage
    rw [fetchPlaces_of_one_page (bytesInPage_of_one_page hpage), placesInPage_eq, State.forFetch_ctx, hok]
    rfl
  case twoPages =>
    intro n hsum hn
    have hfirst : (placesInPage o (s.forFetch o) s.pc n).places =
        .ok ((List.range n).map fun i => (space, pa + i)) := by
      rw [placesInPage_eq, State.forFetch_ctx, hok]
      rfl
    rw [fetchPlaces_of_two_pages (bytesInPage_of_two_pages hsum hn) hn hfirst]
    simp only [placesInPage_eq, State.forFetch_ctx]
    refine ⟨fun f h => ?fault, fun x h => ?refused, fun pa2 space2 info2 h => ?ok⟩ <;> rw [h] <;> rfl

end Sys2Proof.Machine
end

section
/-! SUPPORT. The reset state (R420, log entries 1 and 2) and the operations on the context (R389, R390, log entries 12,
14 and 25). -/

namespace Sys2Proof.Machine

/-- The lists of the reset state and its memory are empty, and no stage of it is enabled. -/
theorem State.reset_invariant : State.reset.Invariant where
  memCanonical := rfl
  memBelow := rfl
  levelImplemented := rfl
  noStage2WithoutEL2 := fun _ w => ⟨by cases w <;> rfl, List.not_mem_nil⟩
  walksAllowed := fun _ ha => absurd ha List.not_mem_nil
  spuWalksAllowed := fun _ ha => absurd ha List.not_mem_nil
  observationsAllowed := fun _ hx => absurd hx List.not_mem_nil

/-- Settles O7: the reset state meets each clause of the invariant. -/
theorem resetMeetsInvariant : Obligations.ResetMeetsInvariant := by
  unfold Obligations.ResetMeetsInvariant
  exact State.reset.inv_iff.mpr State.reset_invariant

theorem opExceptionReturn_of_lower {s : State} {target : EL} (hlower : target.num < s.el.num)
    (himpl : implementsEL s.cfg target = true) :
    opExceptionReturn target s = .next (s.returnFromException target) := by
  simp [opExceptionReturn, Nat.not_le_of_lt hlower, himpl]

/-- Settles O13: where the checks on the target pass, each operation is its update of the state. -/
theorem contextOperationsChangeOnlyTheContext : Obligations.ContextOperationsChangeOnlyTheContext := by
  unfold Obligations.ContextOperationsChangeOnlyTheContext
  exact fun o s target => ⟨opExceptionTo_of_higher, opExceptionReturn_of_lower, fun ss => rfl⟩

end Sys2Proof.Machine
end
